-- ==== Sys2Proof/Word.lean ====
section
/-! DEFINITION. The word types of the machine: a byte (a general register, a memory cell, the delay timer: R5
`REG_BITS`, `DT_BITS`) and a 16-bit word (an instruction, I, pc, a stack entry: R5 `I_BITS`, R6 `PC_BITS`, R26), and the
index types of the register file and of the hex keys. All values are unsigned (R7). -/

namespace Sys2Proof

/-- A `u8` (R7). -/
abbrev Byte := BitVec 8

/-- A `u16` (R7): an instruction word, the address register, the program counter, a return address. -/
abbrev Word := BitVec 16

/-- The 12-bit address field NNN (R8). -/
abbrev Addr12 := BitVec 12

/-- The index of a general register, always in 0..15 (R21). -/
abbrev Reg := Fin 16

/-- A hex key, 0..15 (R34). -/
abbrev HexKey := Fin 16

/-- VF, the flags register, is V[15] (R9, R22). -/
abbrev regF : Reg := 15

end Sys2Proof
end

