-- ==== Sys2Proof/Config.lean ====
section
/-! DEFINITION. The constants the spec fixes (R5), the parameters it leaves open (R6), and the free values: what the
host supplies from outside and what the spec calls "any value" (93_implementation_defined.md). An open parameter is
an opaque constant: no proof can see its value, so a theorem holds for every value of it. -/

namespace Sys2Proof.Config

/-- R5 `MEM_SIZE`: addresses 0x000 to 0xFFF. -/
def memSize : Nat := 4096

/-- R5 `PROG_BASE`: the reset value of pc and the ROM load address. -/
def progBase : Nat := 0x200

/-- R5 `FONT_BASE`: the font load address. -/
def fontBase : Nat := 0x000

/-- R5 `GLYPH_BYTES`. -/
def glyphBytes : Nat := 5

/-- R5 `INSN_BYTES`. -/
def insnBytes : Nat := 2

/-- R5 `TIMER_HZ`: one decrement interval is 1/60 s. -/
def timerHz : Nat := 60

/-- By how much STACK_DEPTH exceeds 12 (open; log entry 3). -/
opaque stackDepthOver12 : Nat

/-- R6, R26 `STACK_DEPTH`: an open parameter, any integer ≥ 12 (92_eei_decisions.md D5; log entry 3). -/
def stackDepth : Nat := stackDepthOver12 + 12

/-- By how much CLOCK_HZ exceeds 1 (open; log entry 4). -/
opaque clockHzOver1 : Nat

/-- R6 `CLOCK_HZ`: an open parameter, any integer > 0, the units of `now` in a second (D8; log entry 4). -/
def clockHz : Nat := clockHzOver1 + 1

/-- R6: the two values of the parameter `I_OVERFLOW` (D12). -/
inductive IOverflow where
  /-- FX1E reduces the sum modulo 65536. -/
  | wrap16
  /-- FX1E raises Fatal(IndexOverflow). -/
  | fault
deriving DecidableEq, Repr, Inhabited

/-- R6 `I_OVERFLOW`: an open parameter (D12; log entry 5). -/
opaque iOverflow : IOverflow

/-- FREE VALUE: what stack entry `k` holds before any push has written it, "any value; no program can read them"
(93_implementation_defined.md Part 1; R39; log entry 2). -/
opaque stackInit : Nat → Word

/-- FREE VALUE: by how much the host clock `now` has grown when the host's listed inputs have run out. It is a
growth, so `now` never decreases (R40, D25; log entry 6). -/
opaque hostElapsed : Nat → Nat

/-- FREE VALUE: the key the host shows when its listed inputs have run out (R35; log entry 6). -/
opaque hostKey : Nat → Option HexKey

/-- FREE VALUE: the random byte the host offers when its listed inputs have run out (R158, D18; log entry 6). -/
opaque hostRand : Nat → Byte

end Sys2Proof.Config
end

