-- ==== Sys2Proof/Syntax.lean ====
section
/-! DEFINITION. The instructions: one constructor per row of the opcode table (R76), in the table's order. The
operand types carry the field widths of R8: a register is a nibble (R21), NN a byte, NNN 12 bits, N a count 0..15.
8XY6 and 8XYE keep their Y field, which is decoded and ignored (R77). -/

namespace Sys2Proof

/-- The 34 instructions of R76. -/
inductive Instr where
  /-- 00E0 CLS (R170). -/
  | cls
  /-- 00EE RET (R122). -/
  | ret
  /-- 1NNN JP addr (R120). -/
  | jpAddr (nnn : Addr12)
  /-- 2NNN CALL addr (R121). -/
  | callAddr (nnn : Addr12)
  /-- 3XNN SE Vx, byte (R131). -/
  | seByte (x : Reg) (nn : Byte)
  /-- 4XNN SNE Vx, byte (R132). -/
  | sneByte (x : Reg) (nn : Byte)
  /-- 5XY0 SE Vx, Vy (R133). -/
  | seReg (x y : Reg)
  /-- 6XNN LD Vx, byte (R142). -/
  | ldByte (x : Reg) (nn : Byte)
  /-- 7XNN ADD Vx, byte (R143). -/
  | addByte (x : Reg) (nn : Byte)
  /-- 8XY0 LD Vx, Vy (R144). -/
  | ldReg (x y : Reg)
  /-- 8XY1 OR Vx, Vy (R145). -/
  | orReg (x y : Reg)
  /-- 8XY2 AND Vx, Vy (R146). -/
  | andReg (x y : Reg)
  /-- 8XY3 XOR Vx, Vy (R147). -/
  | xorReg (x y : Reg)
  /-- 8XY4 ADD Vx, Vy (R149). -/
  | addReg (x y : Reg)
  /-- 8XY5 SUB Vx, Vy (R150). -/
  | subReg (x y : Reg)
  /-- 8XY6 SHR Vx, with Y ignored (R151). -/
  | shrReg (x y : Reg)
  /-- 8XY7 SUBN Vx, Vy (R152). -/
  | subnReg (x y : Reg)
  /-- 8XYE SHL Vx, with Y ignored (R153). -/
  | shlReg (x y : Reg)
  /-- 9XY0 SNE Vx, Vy (R134). -/
  | sneReg (x y : Reg)
  /-- ANNN LD I, addr (R160). -/
  | ldI (nnn : Addr12)
  /-- BNNN JP V0, addr (R123). -/
  | jpV0 (nnn : Addr12)
  /-- CXNN RND Vx, byte (R158). -/
  | rnd (x : Reg) (nn : Byte)
  /-- DXYN DRW Vx, Vy, nibble (R171). -/
  | drw (x y : Reg) (n : Fin 16)
  /-- EX9E SKP Vx (R135). -/
  | skp (x : Reg)
  /-- EXA1 SKNP Vx (R136). -/
  | sknp (x : Reg)
  /-- FX07 LD Vx, DT (R180). -/
  | ldFromDT (x : Reg)
  /-- FX0A LD Vx, K (R182). -/
  | waitKey (x : Reg)
  /-- FX15 LD DT, Vx (R181). -/
  | ldDT (x : Reg)
  /-- FX18 LD ST, Vx, no effect (R183). -/
  | ldST (x : Reg)
  /-- FX1E ADD I, Vx (R161). -/
  | addI (x : Reg)
  /-- FX29 LD F, Vx (R162). -/
  | ldF (x : Reg)
  /-- FX33 LD B, Vx (R163). -/
  | ldB (x : Reg)
  /-- FX55 LD [I], Vx (R164). -/
  | storeRegs (x : Reg)
  /-- FX65 LD Vx, [I] (R165). -/
  | loadRegs (x : Reg)
deriving DecidableEq, Repr

end Sys2Proof
end

