-- ==== Sys2Proof/WellFormed.lean ====
section
/-! DEFINITION. Well-formedness checks. An instruction has none beyond its types: a register index is a nibble,
"never out of range by construction" (R21), and no immediate is restricted (R72). What can be ill formed is what the
host loads: a load that does not fit the memory (R233), a ROM longer than 3584 bytes (R232). -/

namespace Sys2Proof

/-- Every instruction of R76 is well formed: its operand types carry the whole range check (R21, R72). -/
def Instr.wf : Instr → Bool
  | _ => true

/-- R233: a load of `bytes` at `offset` fits when it ends at or below the end of the memory. -/
def loadFits (offset : Nat) (bytes : List Byte) : Bool :=
  decide (offset + bytes.length ≤ Config.memSize)

/-- R232: a ROM fits above `PROG_BASE`, that is, it has at most 3584 bytes. -/
def romFits (rom : List Byte) : Bool :=
  loadFits Config.progBase rom

/-- R231: a font fits; the spec asks for no particular length (93_implementation_defined.md Part 1). -/
def fontFits (font : List Byte) : Bool :=
  loadFits Config.fontBase font

end Sys2Proof
end

