-- ==== Sys2Proof/Decode.lean ====
section
/-! DEFINITION. Decoding (R70 to R78) and, after it, encoding. The decoder is the table of R76, one row per
instruction with its `match` and `mask`, and R74's search in it; a word that no row accepts is rejected by name as
UNRECOGNIZED (R75). Instruction words are big-endian (R55, R70). -/

namespace Sys2Proof

/-- Why bytes do not decode. -/
inductive DecodeRefusal where
  /-- R75: the word matches no row of the table (UNRECOGNIZED). -/
  | unrecognized (op : Word)
  /-- Fewer than two bytes are given (R70: every instruction is one 16-bit word). -/
  | truncated
deriving DecidableEq, Repr

/-! ## The fields of an instruction word (R8) -/

/-- R8: `X = op[11:8]`. -/
def fieldX (op : Word) : Reg := (op.extractLsb' 8 4).toFin

/-- R8: `Y = op[7:4]`. -/
def fieldY (op : Word) : Reg := (op.extractLsb' 4 4).toFin

/-- R8: `N = op[3:0]`. -/
def fieldN (op : Word) : Fin 16 := (op.extractLsb' 0 4).toFin

/-- R8: `NN = op[7:0]`. -/
def fieldNN (op : Word) : Byte := op.extractLsb' 0 8

/-- R8: `NNN = op[11:0]`. -/
def fieldNNN (op : Word) : Addr12 := op.extractLsb' 0 12

/-! ## The opcode table (R76) -/

/-- One row of R76: the word's fixed bits, which bits are fixed, and the instruction its fields give. -/
structure OpcodeRow where
  matchBits : Word
  maskBits : Word
  build : Word → Instr

/-- R74: a row accepts a word when every fixed bit agrees. -/
def OpcodeRow.accepts (r : OpcodeRow) (op : Word) : Bool :=
  op &&& r.maskBits == r.matchBits

/-- Rows 1 to 9 of R76. -/
def opcodeRowsA : List OpcodeRow :=
  [ ⟨0x00E0, 0xFFFF, fun _ => .cls⟩
  , ⟨0x00EE, 0xFFFF, fun _ => .ret⟩
  , ⟨0x1000, 0xF000, fun op => .jpAddr (fieldNNN op)⟩
  , ⟨0x2000, 0xF000, fun op => .callAddr (fieldNNN op)⟩
  , ⟨0x3000, 0xF000, fun op => .seByte (fieldX op) (fieldNN op)⟩
  , ⟨0x4000, 0xF000, fun op => .sneByte (fieldX op) (fieldNN op)⟩
  , ⟨0x5000, 0xF00F, fun op => .seReg (fieldX op) (fieldY op)⟩
  , ⟨0x6000, 0xF000, fun op => .ldByte (fieldX op) (fieldNN op)⟩
  , ⟨0x7000, 0xF000, fun op => .addByte (fieldX op) (fieldNN op)⟩ ]

/-- Rows 10 to 18 of R76: top nibble 8. -/
def opcodeRowsB : List OpcodeRow :=
  [ ⟨0x8000, 0xF00F, fun op => .ldReg (fieldX op) (fieldY op)⟩
  , ⟨0x8001, 0xF00F, fun op => .orReg (fieldX op) (fieldY op)⟩
  , ⟨0x8002, 0xF00F, fun op => .andReg (fieldX op) (fieldY op)⟩
  , ⟨0x8003, 0xF00F, fun op => .xorReg (fieldX op) (fieldY op)⟩
  , ⟨0x8004, 0xF00F, fun op => .addReg (fieldX op) (fieldY op)⟩
  , ⟨0x8005, 0xF00F, fun op => .subReg (fieldX op) (fieldY op)⟩
  , ⟨0x8006, 0xF00F, fun op => .shrReg (fieldX op) (fieldY op)⟩
  , ⟨0x8007, 0xF00F, fun op => .subnReg (fieldX op) (fieldY op)⟩
  , ⟨0x800E, 0xF00F, fun op => .shlReg (fieldX op) (fieldY op)⟩ ]

/-- Rows 19 to 25 of R76. -/
def opcodeRowsC : List OpcodeRow :=
  [ ⟨0x9000, 0xF00F, fun op => .sneReg (fieldX op) (fieldY op)⟩
  , ⟨0xA000, 0xF000, fun op => .ldI (fieldNNN op)⟩
  , ⟨0xB000, 0xF000, fun op => .jpV0 (fieldNNN op)⟩
  , ⟨0xC000, 0xF000, fun op => .rnd (fieldX op) (fieldNN op)⟩
  , ⟨0xD000, 0xF000, fun op => .drw (fieldX op) (fieldY op) (fieldN op)⟩
  , ⟨0xE09E, 0xF0FF, fun op => .skp (fieldX op)⟩
  , ⟨0xE0A1, 0xF0FF, fun op => .sknp (fieldX op)⟩ ]

/-- Rows 26 to 34 of R76: top nibble F. -/
def opcodeRowsD : List OpcodeRow :=
  [ ⟨0xF007, 0xF0FF, fun op => .ldFromDT (fieldX op)⟩
  , ⟨0xF00A, 0xF0FF, fun op => .waitKey (fieldX op)⟩
  , ⟨0xF015, 0xF0FF, fun op => .ldDT (fieldX op)⟩
  , ⟨0xF018, 0xF0FF, fun op => .ldST (fieldX op)⟩
  , ⟨0xF01E, 0xF0FF, fun op => .addI (fieldX op)⟩
  , ⟨0xF029, 0xF0FF, fun op => .ldF (fieldX op)⟩
  , ⟨0xF033, 0xF0FF, fun op => .ldB (fieldX op)⟩
  , ⟨0xF055, 0xF0FF, fun op => .storeRegs (fieldX op)⟩
  , ⟨0xF065, 0xF0FF, fun op => .loadRegs (fieldX op)⟩ ]

/-- The whole table of R76, in its order. -/
def opcodeTable : List OpcodeRow :=
  opcodeRowsA ++ opcodeRowsB ++ opcodeRowsC ++ opcodeRowsD

/-- R74: the row that accepts the word gives the instruction; with no such row the word is UNRECOGNIZED (R75). -/
def decode (op : Word) : Except DecodeRefusal Instr :=
  match opcodeTable.find? (fun r => r.accepts op) with
  | some r => .ok (r.build op)
  | none => .error (.unrecognized op)

/-- R53, R55: the 16-bit big-endian word whose high byte lies at the lower address. -/
def wordOfBytes (hi lo : Byte) : Word := hi ++ lo

/-- The high byte of a word, stored at the lower address (R55). -/
def highByte (op : Word) : Byte := op.extractLsb' 8 8

/-- The low byte of a word, stored at the higher address (R55). -/
def lowByte (op : Word) : Byte := op.extractLsb' 0 8

/-- Decoding of a byte stream: the instruction of the first two bytes, and the bytes after them (R70). -/
def decodeBytes : List Byte → Except DecodeRefusal (Instr × List Byte)
  | hi :: lo :: rest =>
    match decode (wordOfBytes hi lo) with
    | .ok i => .ok (i, rest)
    | .error e => .error e
  | _ => .error .truncated

/-! ## Encoding -/

/-- Format `A` (R71): a top nibble and a 12-bit address. -/
def encodeA (op : BitVec 4) (nnn : Addr12) : Word := op ++ nnn

/-- Format `XK` and `XF` (R71): a top nibble, a register and a byte. -/
def encodeXK (op : BitVec 4) (x : Reg) (nn : Byte) : Word := op ++ (BitVec.ofFin x : BitVec 4) ++ nn

/-- Format `XYN` (R71): a top nibble, two registers and a low nibble. -/
def encodeXYN (op : BitVec 4) (x y : Reg) (n : Fin 16) : Word :=
  op ++ (BitVec.ofFin x : BitVec 4) ++ (BitVec.ofFin y : BitVec 4) ++ (BitVec.ofFin n : BitVec 4)

/-- The word of an instruction, from the layouts of R71 and the patterns of R76. -/
def encode : Instr → Word
  | .cls => 0x00E0
  | .ret => 0x00EE
  | .jpAddr nnn => encodeA 0x1 nnn
  | .callAddr nnn => encodeA 0x2 nnn
  | .seByte x nn => encodeXK 0x3 x nn
  | .sneByte x nn => encodeXK 0x4 x nn
  | .seReg x y => encodeXYN 0x5 x y 0x0
  | .ldByte x nn => encodeXK 0x6 x nn
  | .addByte x nn => encodeXK 0x7 x nn
  | .ldReg x y => encodeXYN 0x8 x y 0x0
  | .orReg x y => encodeXYN 0x8 x y 0x1
  | .andReg x y => encodeXYN 0x8 x y 0x2
  | .xorReg x y => encodeXYN 0x8 x y 0x3
  | .addReg x y => encodeXYN 0x8 x y 0x4
  | .subReg x y => encodeXYN 0x8 x y 0x5
  | .shrReg x y => encodeXYN 0x8 x y 0x6
  | .subnReg x y => encodeXYN 0x8 x y 0x7
  | .shlReg x y => encodeXYN 0x8 x y 0xE
  | .sneReg x y => encodeXYN 0x9 x y 0x0
  | .ldI nnn => encodeA 0xA nnn
  | .jpV0 nnn => encodeA 0xB nnn
  | .rnd x nn => encodeXK 0xC x nn
  | .drw x y n => encodeXYN 0xD x y n
  | .skp x => encodeXK 0xE x 0x9E
  | .sknp x => encodeXK 0xE x 0xA1
  | .ldFromDT x => encodeXK 0xF x 0x07
  | .waitKey x => encodeXK 0xF x 0x0A
  | .ldDT x => encodeXK 0xF x 0x15
  | .ldST x => encodeXK 0xF x 0x18
  | .addI x => encodeXK 0xF x 0x1E
  | .ldF x => encodeXK 0xF x 0x29
  | .ldB x => encodeXK 0xF x 0x33
  | .storeRegs x => encodeXK 0xF x 0x55
  | .loadRegs x => encodeXK 0xF x 0x65

/-- The bytes of an instruction as they lie in memory, high byte first (R55). -/
def encodeBytes (i : Instr) : List Byte := [highByte (encode i), lowByte (encode i)]

/-! ## A word as the opcode table numbers its bits -/

/-- The instruction word whose bits are the low `nbits` bits of `w`, the bits above them zero. -/
def tableWord (nbits w : Nat) : Word := BitVec.ofNat 16 (w % 2 ^ nbits)

/-- The instruction the decoder reads from a word of the opcode table, laid out as the hardware stores it. -/
def decodeTableWord (nbits w : Nat) : Option Instr :=
  match decodeBytes [highByte (tableWord nbits w), lowByte (tableWord nbits w)] with
  | .ok (i, _) => some i
  | .error _ => none

end Sys2Proof
end

