-- ==== Sys2Proof/Machine/State.lean ====
section
/-! DEFINITION. The machine's state as plain data (R20 to R41), its value at creation (R39), and the reasons a step
can stop. -/

namespace Sys2Proof.Machine

/-- R36, R200 to R204: the reasons of a Fatal. A Fatal is a state of the machine (`Status.halt`), not an outcome
without a state. -/
inductive HaltReason where
  /-- R201: raised by the guard of a cycle when pc ≥ 0x0FFF. -/
  | pcExhausted
  /-- R202: raised by 2NNN when SP = STACK_DEPTH. -/
  | stackOverflow
  /-- R203: raised by 00EE when SP = 0. -/
  | stackUnderflow
  /-- R204: raised by DXYN, FX33, FX55 or FX65 when an address is ≥ 4096. -/
  | memoryRange
  /-- R204: raised by FX1E when I + V[X] > 0xFFFF and I_OVERFLOW = fault. -/
  | indexOverflow
deriving DecidableEq, Repr

/-- R36: the engine status ST. -/
inductive Status where
  /-- The next step is a full cycle. -/
  | run
  /-- An FX0A naming register `x` has started and no key has been seen yet. -/
  | wait (x : Reg)
  /-- The machine has stopped for good. -/
  | halt (reason : HaltReason)
deriving DecidableEq, Repr

/-- R206: one diagnostic event, the unrecognized word and the address it was fetched from. -/
structure Diag where
  word : Word
  addr : Word
deriving DecidableEq, Repr

/-- R40: what the host puts on the input ports for one step: the clock, the key and the random byte. -/
structure HostInput where
  now : Nat
  key : Option HexKey
  rand : Byte
deriving DecidableEq, Repr

/-- R50: the memory, as the list of its nonzero bytes with their addresses; an address that is not listed reads as
0, the creation value (R39 "zero-initialized"). -/
abbrev Memory := List Host.Cell

/-- R33: the display buffer, 32 rows (top to bottom) of 64 one-bit cells (left to right). -/
abbrev Display := Vector (Vector Bool 64) 32

/-- The state of the machine: R38's complete list, then the ports of R40 and what the model needs to run them. -/
structure State where
  /-- R20: V0..VF; V[15] is VF (R22). -/
  v : Vector Byte 16
  /-- R23: the address register I. -/
  i : Word
  /-- R24: the program counter. -/
  pc : Word
  /-- R26: the stack entries that have been written, the oldest at index 0; a popped entry keeps its value. -/
  stack : List Word
  /-- R26: the stack pointer, how many entries are in use. -/
  sp : Nat
  /-- R30: the delay timer's value DT. -/
  dt : Byte
  /-- R30: DT_LAST, the host-clock time of the timer's last decrement. -/
  dtLast : Nat
  /-- R32, R50: Mem. -/
  mem : Memory
  /-- R33: Disp. -/
  disp : Display
  /-- R36: ST, the `status` port. -/
  status : Status
  /-- R40: the `now` port at the next step. -/
  now : Nat
  /-- R34, R40: the input state, the `key` port at the next step. -/
  key : Option HexKey
  /-- R37, R40: the `rand` port at the next step. -/
  rand : Byte
  /-- THE MODEL'S OWN (log entry 6): what the host puts on the ports for the steps after the next one. -/
  hostInputs : List HostInput
  /-- THE MODEL'S OWN (log entry 6): how many free values the host ports have taken. -/
  freeDraws : Nat
  /-- R233, D22 (log entry 12): the first step has happened, so the load port is closed. -/
  started : Bool
  /-- R40, R206: the events the `diag` port has emitted, the newest first (log entry 9). -/
  diags : List Diag
deriving DecidableEq, Repr

/-- The ways the machine stops without a next state. No step of this machine does: a Fatal is a next state whose
status is HALT (R200; log entry 10). -/
inductive Fault where
  /-- R233, R234: raised by the load port alone, when the bytes do not fit ("a fatal configuration error"); the
  machine never starts. Safe: it stops where the spec stops. -/
  | loadError
deriving DecidableEq, Repr

/-- The ways the model answers that it gives no meaning. -/
inductive Refusal where
  /-- Raised by `exec` for an instruction with no meaning yet; no instruction is left so. Safe. -/
  | notModelled (mnemonic : String)
  /-- D22: raised by the load port alone, when it is used after the first step ("a model refuses it"). Safe. -/
  | loadAfterFirstStep
deriving DecidableEq, Repr

/-- R6 `INIT`: the open creation values of V0..VF, I, DT and the display (D6). -/
structure Init where
  v : Vector Byte 16
  i : Word
  dt : Byte
  disp : Display
deriving DecidableEq, Repr

/-- The INIT that `State.reset` takes: all zero (log entry 1). -/
def Init.zero : Init :=
  { v := Vector.replicate 16 0, i := 0, dt := 0, disp := Vector.replicate 32 (Vector.replicate 64 false) }

/-- R39: the machine at creation, for any INIT and any host-clock time `t0`. The random byte on the port is the first
free value (log entry 7). The key is none, as R39 says; that no host writes a key before the first step, so that the
first step samples none, is the model's choice (DESIGN CHOICE, log entry 25). -/
def State.create (init : Init) (t0 : Nat) : State :=
  { v := init.v
    i := init.i
    pc := BitVec.ofNat 16 Config.progBase
    stack := []
    sp := 0
    dt := init.dt
    dtLast := t0
    mem := []
    disp := init.disp
    status := .run
    now := t0
    key := none
    rand := Config.hostRand 0
    hostInputs := []
    freeDraws := 1
    started := false
    diags := [] }

/-- The machine right after creation (R39, R230), with INIT all zero and t0 = 0 (log entries 1 and 8). -/
def State.reset : State := State.create Init.zero 0

end Sys2Proof.Machine
end

