-- ==== Sys2Proof/Machine/Operands.lean ====
section
/-! DEFINITION. Operand forms (R7 to R10, R71 to R73): a general register, an immediate, the sampled key, the random
byte, an address computed from I; and the named updates of one piece of the state, which every meaning goes through. -/

namespace Sys2Proof.Machine

/-- R10: `wrap8(v) = v mod 256`. -/
def wrap8 (n : Nat) : Byte := BitVec.ofNat 8 n

/-- R10: `wrap16(v) = v mod 65536`. -/
def wrap16 (n : Nat) : Word := BitVec.ofNat 16 n

/-- R7: `zext_16` of a byte. -/
def zext16 (b : Byte) : Word := b.setWidth 16

/-- R72: NNN, zero-extended to 16 bits where it is written to pc or I. -/
def addrOperand (nnn : Addr12) : Word := nnn.setWidth 16

/-- R9, R21: `V[i]`; total over 0..15. -/
def State.readV (s : State) (x : Reg) : Byte := s.v[x.val]

/-- R9, R21: `V[i] <- b`. -/
def State.writeV (s : State) (x : Reg) (b : Byte) : State := { s with v := s.v.set x.val b }

/-- R9: `I <- w`. -/
def State.writeI (s : State) (w : Word) : State := { s with i := w }

/-- R9: `pc <- w`. -/
def State.writePc (s : State) (w : Word) : State := { s with pc := w }

/-- R9: `DT <- b`. DT_LAST stays (R181). -/
def State.writeDT (s : State) (b : Byte) : State := { s with dt := b }

/-- R212: the two writes of a decrement. -/
def State.writeTimer (s : State) (b : Byte) (last : Nat) : State := { s with dt := b, dtLast := last }

/-- R32: the memory replaced. -/
def State.writeMem (s : State) (m : Memory) : State := { s with mem := m }

/-- R33: the display buffer replaced, as one indivisible action (R66). -/
def State.writeDisp (s : State) (d : Display) : State := { s with disp := d }

/-- R26: the stack entries and the stack pointer replaced. -/
def State.writeStack (s : State) (entries : List Word) (sp : Nat) : State := { s with stack := entries, sp := sp }

/-- R36: `ST <- st`. -/
def State.writeStatus (s : State) (st : Status) : State := { s with status := st }

/-- R206: one more event on the `diag` output. -/
def State.emitDiag (s : State) (d : Diag) : State := { s with diags := d :: s.diags }

/-- R40: the values the host puts on the input ports for the next step. -/
def State.setPorts (s : State) (inp : HostInput) : State :=
  { s with now := inp.now, key := inp.key, rand := inp.rand }

/-- R35: `Key()`, the input state as it stands in this step, one sample for each execution. -/
def State.sampleKey (s : State) : Option HexKey := s.key

/-- R158: `Rand8()`, the `rand` input of this step. -/
def State.drawRand (s : State) : Byte := s.rand

/-- R56: the address `I + k`, an exact integer sum with no wrap. -/
def State.indexed (s : State) (k : Nat) : Nat := s.i.toNat + k

/-- The value of a key as a register holds it (R182: "the key as sampled, 0..15"). -/
def keyByte (k : HexKey) : Byte := wrap8 k.val

end Sys2Proof.Machine
end

