-- ==== Sys2Proof/Machine/Flags.lean ====
section
/-! DEFINITION. The arithmetic of bytes with its flag (R148): each operation gives the result byte and the value of
VF. VF is the only flag (R22). Operands are taken as integers, the result is computed exactly and then reduced. -/

namespace Sys2Proof.Machine

/-- R10: `b2u(c)`. -/
def b2u (c : Bool) : Byte := if c then 1 else 0

/-- R148: the result of an operation that also gives a flag. -/
structure Flagged where
  result : Byte
  flag : Byte
deriving DecidableEq, Repr

/-- R148, R149: the sum wraps modulo 256; the carry is `b2u(x + y ≥ 256)`. -/
def addWithCarry (x y : Byte) : Flagged :=
  { result := wrap8 (x.toNat + y.toNat), flag := b2u (decide (256 ≤ x.toNat + y.toNat)) }

/-- R148, R150: the difference is `(x - y + 256) mod 256`; the borrow is `b2u(x < y)`. VF is 1 ON borrow. -/
def subWithBorrow (x y : Byte) : Flagged :=
  { result := wrap8 (x.toNat + 256 - y.toNat), flag := b2u (decide (x.toNat < y.toNat)) }

/-- R148, R151: `x >> 1`, and the bit lost, `x[0]`. -/
def shiftRightOut (x : Byte) : Flagged :=
  { result := x >>> 1, flag := b2u (x.getLsbD 0) }

/-- R148, R153: `wrap8(x << 1)`, and the bit lost, `x[7]`. -/
def shiftLeftOut (x : Byte) : Flagged :=
  { result := x <<< 1, flag := b2u (x.getLsbD 7) }

/-- R141: the result goes to V[X] first and the flag to VF second, so that VF holds the flag when X = 0xF. -/
def State.writeFlagged (s : State) (x : Reg) (f : Flagged) : State :=
  (s.writeV x f.result).writeV regF f.flag

end Sys2Proof.Machine
end

