-- ==== Sys2Proof/Machine/Ops.lean ====
section
/-! DEFINITION. The shared operations over memory, the stack, the display and the status: raising a Fatal (the only
exception this machine has, R200, R210: there is no return from one), the byte accesses with their range check (R52,
R54), Push and Pop (R27, R28), the blit engine (R172), the skip (R130), the timer tick (R212), the key wait (R182), the
load port (R233) and the boot sequence (R230). -/

namespace Sys2Proof.Machine

/-! ## Fatals -/

/-- R200: `raise Fatal(reason)`. ST becomes HALT(reason) and nothing else changes. -/
def State.raise (s : State) (r : HaltReason) : State := s.writeStatus (.halt r)

/-- R207: the spec's own numbers for the Fatal reasons. -/
def HaltReason.code : HaltReason → Nat
  | .pcExhausted => 1
  | .stackOverflow => 2
  | .stackUnderflow => 3
  | .memoryRange => 4
  | .indexOverflow => 5

/-- R207: the number of the diagnostic Unrecognized. -/
def diagCode : Nat := 16

/-! ## Memory -/

/-- R50: the byte at an address; one that is not listed holds its creation value 0 (R39). -/
def Memory.read : Memory → Nat → Byte
  | [], _ => 0
  | (b, v) :: m, a => if a = b then v else Memory.read m a

/-- A listed byte put at its place in address order. -/
def Memory.insertCell (c : Host.Cell) : Memory → Memory
  | [] => [c]
  | d :: m => if c.1 < d.1 then c :: d :: m else d :: Memory.insertCell c m

/-- R52: `Mem[addr] <- v`. The byte 0 is what an unlisted address reads as, so writing it leaves no entry. -/
def Memory.write (m : Memory) (a : Nat) (v : Byte) : Memory :=
  let rest := m.filter (fun c => c.1 != a)
  if v = 0 then rest else Memory.insertCell (a, v) rest

/-- The canonical form: addresses strictly rising and in range, no entry equal to what an unlisted address reads as. -/
abbrev Memory.wf (m : Memory) : Prop :=
  m.Pairwise (fun c d => c.1 < d.1) ∧ ∀ c ∈ m, c.2 ≠ 0 ∧ c.1 < Config.memSize

/-- `n` byte reads at ascending addresses from `a` (R56). -/
def Memory.readList (m : Memory) : Nat → Nat → List Byte
  | _, 0 => []
  | a, n + 1 => m.read a :: Memory.readList m (a + 1) n

/-- Byte writes at ascending addresses from `a` (R56, R61). -/
def Memory.writeList : Memory → Nat → List Byte → Memory
  | m, _, [] => m
  | m, a, b :: bs => Memory.writeList (m.write a b) (a + 1) bs

/-- R54: every address of an access of `n` bytes from `a` is addressable (R50); an access of no bytes always is
(R175). -/
def rangeOk (a n : Nat) : Bool := n == 0 || decide (a + n ≤ Config.memSize)

/-- R52, R54: `n` byte reads from `a`, or MemoryRange when an address is out of range. -/
def State.readBytes (s : State) (a n : Nat) : Except HaltReason (List Byte) :=
  if rangeOk a n then .ok (s.mem.readList a n) else .error .memoryRange

/-- R52, R54: byte writes from `a`; an address out of range raises MemoryRange before any byte is written. -/
def State.writeBytes (s : State) (a : Nat) (bs : List Byte) : State :=
  if rangeOk a bs.length then s.writeMem (s.mem.writeList a bs) else s.raise .memoryRange

/-- R53: `Fetch16(addr)`, the two bytes at `addr` and `addr + 1`, the high byte first. -/
def State.fetchBytes (s : State) (a : Word) : List Byte := s.mem.readList a.toNat Config.insnBytes

/-- R53: the word of the two bytes. -/
def State.fetch16 (s : State) (a : Word) : Word := wordOfBytes (s.mem.read a.toNat) (s.mem.read (a.toNat + 1))

/-! ## Registers in a row -/

/-- R165: `V[k] <- byte` for each byte, from register `k` upward. -/
def writeRegsFrom (v : Vector Byte 16) : Nat → List Byte → Vector Byte 16
  | _, [] => v
  | k, b :: bs => writeRegsFrom (v.setIfInBounds k b) (k + 1) bs

/-- R165: V0 and the registers after it replaced by the bytes. -/
def State.loadV (s : State) (bs : List Byte) : State := { s with v := writeRegsFrom s.v 0 bs }

/-- R164: V[0..X]. -/
def State.firstRegs (s : State) (x : Reg) : List Byte := s.v.toList.take (x.val + 1)

/-! ## Call stack -/

/-- R26: stack entry `k`; one that no push has written holds its open creation value (R39). -/
def State.stackEntry (s : State) (k : Nat) : Word := s.stack.getD k (Config.stackInit k)

/-- An entry of the list replaced; entries up to it that no push has written keep their creation value. -/
def setEntry : Nat → List Word → Nat → Word → List Word
  | _, [], 0, w => [w]
  | base, [], k + 1, w => Config.stackInit base :: setEntry (base + 1) [] k w
  | _, _ :: es, 0, w => w :: es
  | base, e :: es, k + 1, w => e :: setEntry (base + 1) es k w

/-- R27: `Push(w)` followed by `pc <- target` when it does not overflow (the only use of Push, R29, R121). -/
def State.pushAndJump (s : State) (depth : Nat) (w target : Word) : State :=
  if s.sp = depth then s.raise .stackOverflow
  else (s.writeStack (setEntry 0 s.stack s.sp w) (s.sp + 1)).writePc target

/-- R28: `pc <- Pop()` when it does not underflow (the only use of Pop, R29, R122). -/
def State.popToPc (s : State) : State :=
  if s.sp = 0 then s.raise .stackUnderflow
  else (s.writeStack s.stack (s.sp - 1)).writePc (s.stackEntry (s.sp - 1))

/-! ## Skip -/

/-- R130: a skip adds 2 to pc when the condition holds. -/
def State.skipIf (s : State) (c : Bool) : State :=
  if c then s.writePc (s.pc + 2) else s

/-! ## Address register -/

/-- R161: `I + V[X]` exactly; above 0xFFFF the parameter I_OVERFLOW decides: the sum modulo 65536 (D12), or the
Fatal. -/
def State.addToI (s : State) (ov : Config.IOverflow) (b : Byte) : State :=
  if s.i.toNat + b.toNat ≤ 0xFFFF then s.writeI (wrap16 (s.i.toNat + b.toNat))
  else match ov with
    | .wrap16 => s.writeI (wrap16 (s.i.toNat + b.toNat))
    | .fault => s.raise .indexOverflow

/-! ## Display -/

/-- R33: `Disp[r][c]`; no cell lies outside the 32 rows and 64 columns. -/
def Display.cell (d : Display) (r c : Nat) : Bool :=
  if h : r < 32 ∧ c < 64 then (d[r]'h.1)[c]'h.2 else false

/-- R33: `Disp[r][c] <- b`. -/
def Display.setCell (d : Display) (r c : Nat) (b : Bool) : Display :=
  if h : r < 32 then d.set r ((d[r]'h).setIfInBounds c b) else d

/-- R170: every cell 0. -/
def Display.clear : Display := Vector.replicate 32 (Vector.replicate 64 false)

/-- R172: the eight bits of a sprite row, the most significant first ("drawn leftmost"). -/
def rowBits (row : Byte) : List Bool := (List.range 8).map (fun b => row.getLsbD (7 - b))

/-- What a blit has done so far: the buffer, and whether a lit cell was erased. -/
structure Blitted where
  disp : Display
  collided : Bool
deriving DecidableEq, Repr

/-- R172: one sprite bit XORed into the cell at row `r` and column `c`; a 1 over a lit cell collides (R174). -/
def Blitted.bit (a : Blitted) (r c : Nat) (s : Bool) : Blitted :=
  { disp := a.disp.setCell r c (a.disp.cell r c ^^ s), collided := a.collided || (s && a.disp.cell r c) }

/-- R172: the bits of one row from column `c`; at the right edge the remaining bits are skipped (R173). -/
def Blitted.bits (a : Blitted) (r : Nat) : Nat → List Bool → Blitted
  | _, [] => a
  | c, s :: rest => if 64 ≤ c then a else Blitted.bits (a.bit r c s) r (c + 1) rest

/-- R172: the rows from display row `r`; at the bottom edge the remaining rows are skipped (R173). -/
def Blitted.rows (a : Blitted) (x : Nat) : Nat → List Byte → Blitted
  | _, [] => a
  | r, b :: rest => if 32 ≤ r then a else Blitted.rows (a.bits r x (rowBits b)) x (r + 1) rest

/-- R172: `Blit(x, y, rows)`. -/
def blit (d : Display) (x y : Byte) (rows : List Byte) : Blitted :=
  Blitted.rows { disp := d, collided := false } x.toNat y.toNat rows

/-- R66: the `disp` output port: all 2048 cells as they stand between two steps. Their order on the port, row by row
from the top and left to right in a row, is the model's choice (DESIGN CHOICE, log entry 26): the spec gives none. -/
def State.displayPort (s : State) : List Bool := (s.disp.toList.map Vector.toList).flatten

/-! ## Delay timer -/

/-- R212: `TimerTick(now)`, in units of 1/`clockHz` second. -/
def State.timerTick (s : State) (clockHz : Nat) : State :=
  if s.dt ≠ 0 ∧ clockHz ≤ (s.now - s.dtLast) * Config.timerHz
  then s.writeTimer (wrap8 (s.dt.toNat - 1)) s.now
  else s

/-! ## The key wait -/

/-- R182: the execute phase of FX0A: a key that is there completes the instruction at once, none suspends it. -/
def State.beginWait (s : State) (x : Reg) : State :=
  match s.sampleKey with
  | some k => s.writeV x (keyByte k)
  | none => s.writeStatus (.wait x)

/-- R182: `poll(x, key)`, the step of the machine while ST = WAIT(x). -/
def State.poll (s : State) (x : Reg) : State :=
  match s.sampleKey with
  | some k => (s.writeV x (keyByte k)).writeStatus .run
  | none => s

/-! ## Loading and boot -/

/-- R233: the load port, open before the first step only (D22). -/
def State.load (s : State) (offset : Nat) (bytes : List Byte) : Host.Outcome State Fault Refusal :=
  if s.started then .refused .loadAfterFirstStep
  else if loadFits offset bytes then .next (s.writeMem (s.mem.writeList offset bytes))
  else .fault .loadError

/-- R230: creation, the font load at 0x000 (R231), the ROM load at 0x200 (R232). A load error stops the sequence
(R234). -/
def boot (init : Init) (t0 : Nat) (font rom : List Byte) : Host.Outcome State Fault Refusal :=
  match (State.create init t0).load Config.fontBase font with
  | .next s => s.load Config.progBase rom
  | .fault f => .fault f
  | .refused r => .refused r

end Sys2Proof.Machine
end

