-- ==== Sys2Proof/Machine/Alu.lean ====
section
/-! DEFINITION. Register loads, arithmetic, logic and the random byte (43_alu.md). Every operand is read before any
write (R140). -/

namespace Sys2Proof.Machine

/-- R142: `6XNN`, `V[X] <- NN`. -/
def execLdByte (x : Reg) (nn : Byte) (s : State) : Host.Outcome State Fault Refusal :=
  .next (s.writeV x nn)

/-- R143: `7XNN`, `V[X] <- wrap8(x + NN)`, no flag. -/
def execAddByte (x : Reg) (nn : Byte) (s : State) : Host.Outcome State Fault Refusal :=
  .next (s.writeV x (wrap8 ((s.readV x).toNat + nn.toNat)))

/-- R144: `8XY0`, `V[X] <- y`. -/
def execLdReg (x y : Reg) (s : State) : Host.Outcome State Fault Refusal :=
  .next (s.writeV x (s.readV y))

/-- R145: `8XY1`, `V[X] <- x | y`; VF is left alone. -/
def execOrReg (x y : Reg) (s : State) : Host.Outcome State Fault Refusal :=
  .next (s.writeV x (s.readV x ||| s.readV y))

/-- R146: `8XY2`, `V[X] <- x & y`; VF is left alone. -/
def execAndReg (x y : Reg) (s : State) : Host.Outcome State Fault Refusal :=
  .next (s.writeV x (s.readV x &&& s.readV y))

/-- R147: `8XY3`, `V[X] <- x ^ y`; VF is left alone. -/
def execXorReg (x y : Reg) (s : State) : Host.Outcome State Fault Refusal :=
  .next (s.writeV x (s.readV x ^^^ s.readV y))

/-- R149: `8XY4`, the wrapped sum and the carry. -/
def execAddReg (x y : Reg) (s : State) : Host.Outcome State Fault Refusal :=
  .next (s.writeFlagged x (addWithCarry (s.readV x) (s.readV y)))

/-- R150: `8XY5`, the wrapped difference x - y and the borrow. -/
def execSubReg (x y : Reg) (s : State) : Host.Outcome State Fault Refusal :=
  .next (s.writeFlagged x (subWithBorrow (s.readV x) (s.readV y)))

/-- R151: `8XY6`, V[X] shifted right by one and the bit shifted out; V[Y] is never read. -/
def execShrReg (x _y : Reg) (s : State) : Host.Outcome State Fault Refusal :=
  .next (s.writeFlagged x (shiftRightOut (s.readV x)))

/-- R152: `8XY7`, the wrapped difference y - x and the borrow. -/
def execSubnReg (x y : Reg) (s : State) : Host.Outcome State Fault Refusal :=
  .next (s.writeFlagged x (subWithBorrow (s.readV y) (s.readV x)))

/-- R153: `8XYE`, V[X] shifted left by one and the bit shifted out; V[Y] is never read. -/
def execShlReg (x _y : Reg) (s : State) : Host.Outcome State Fault Refusal :=
  .next (s.writeFlagged x (shiftLeftOut (s.readV x)))

/-- R158: `CXNN`, `V[X] <- r & NN` for the random byte r of this step. -/
def execRnd (x : Reg) (nn : Byte) (s : State) : Host.Outcome State Fault Refusal :=
  .next (s.writeV x (s.drawRand &&& nn))

end Sys2Proof.Machine
end

