-- ==== Sys2Proof/Machine/ControlFlow.lean ====
section
/-! DEFINITION. Jumps, calls and returns (41_control_flow.md). In the execute phase pc holds a + 2 (R104). -/

namespace Sys2Proof.Machine

/-- R120: `1NNN`, `pc <- zext_16(NNN)`. -/
def execJpAddr (nnn : Addr12) (s : State) : Host.Outcome State Fault Refusal :=
  .next (s.writePc (addrOperand nnn))

/-- R121: `2NNN`, `Push(pc)` and then `pc <- zext_16(NNN)`. -/
def execCallAddr (nnn : Addr12) (s : State) : Host.Outcome State Fault Refusal :=
  .next (s.pushAndJump Config.stackDepth s.pc (addrOperand nnn))

/-- R122: `00EE`, `pc <- Pop()`. -/
def execRet (s : State) : Host.Outcome State Fault Refusal :=
  .next s.popToPc

/-- R123: `BNNN`, `pc <- zext_16(NNN) + zext_16(V[0])`, the offset form (90_conflicts.md C1). -/
def execJpV0 (nnn : Addr12) (s : State) : Host.Outcome State Fault Refusal :=
  .next (s.writePc (addrOperand nnn + zext16 (s.readV 0)))

end Sys2Proof.Machine
end

