-- ==== Sys2Proof/Machine/Drawing.lean ====
section
/-! DEFINITION. Display instructions (45_display.md). -/

namespace Sys2Proof.Machine

/-- R170: `00E0`, every cell of the display 0; VF is not written. -/
def execCls (s : State) : Host.Outcome State Fault Refusal :=
  .next (s.writeDisp Display.clear)

/-- R171: `DXYN`: all N bytes are read and range-checked, then blitted at (V[X], V[Y]), then VF takes the collision. -/
def execDrw (x y : Reg) (n : Fin 16) (s : State) : Host.Outcome State Fault Refusal :=
  match s.readBytes (s.indexed 0) n.val with
  | .ok rows =>
    let drawn := blit s.disp (s.readV x) (s.readV y) rows
    .next ((s.writeDisp drawn.disp).writeV regF (b2u drawn.collided))
  | .error r => .next (s.raise r)

end Sys2Proof.Machine
end

