-- ==== Sys2Proof/Machine/IndexMemory.lean ====
section
/-! DEFINITION. Address register and memory instructions (44_index_memory.md). -/

namespace Sys2Proof.Machine

/-- R160: `ANNN`, `I <- zext_16(NNN)`. -/
def execLdI (nnn : Addr12) (s : State) : Host.Outcome State Fault Refusal :=
  .next (s.writeI (addrOperand nnn))

/-- R161: `FX1E`, `I <- I + V[X]`; VF is not written. -/
def execAddI (x : Reg) (s : State) : Host.Outcome State Fault Refusal :=
  .next (s.addToI Config.iOverflow (s.readV x))

/-- R162: `FX29`, `I <- V[X] * 5`, with no mask on V[X]. -/
def execLdF (x : Reg) (s : State) : Host.Outcome State Fault Refusal :=
  .next (s.writeI (wrap16 ((s.readV x).toNat * Config.glyphBytes)))

/-- R163: the decimal digits of a byte: hundreds, tens, ones. -/
def decimalDigits (b : Byte) : List Byte :=
  [wrap8 (b.toNat / 100), wrap8 (b.toNat / 10 % 10), wrap8 (b.toNat % 10)]

/-- R163: `FX33`, the three digits of V[X] stored at I, I + 1 and I + 2. -/
def execLdB (x : Reg) (s : State) : Host.Outcome State Fault Refusal :=
  .next (s.writeBytes (s.indexed 0) (decimalDigits (s.readV x)))

/-- R164: `FX55`, V[0..X] stored from I; I is unchanged. -/
def execStoreRegs (x : Reg) (s : State) : Host.Outcome State Fault Refusal :=
  .next (s.writeBytes (s.indexed 0) (s.firstRegs x))

/-- R165: `FX65`, V[0..X] loaded from I; I is unchanged. -/
def execLoadRegs (x : Reg) (s : State) : Host.Outcome State Fault Refusal :=
  match s.readBytes (s.indexed 0) (x.val + 1) with
  | .ok bytes => .next (s.loadV bytes)
  | .error r => .next (s.raise r)

end Sys2Proof.Machine
end

