-- ==== Sys2Proof/Machine/Skips.lean ====
section
/-! DEFINITION. Conditional skips (42_skips.md). -/

namespace Sys2Proof.Machine

/-- R131: `3XNN`, skip if V[X] = NN. -/
def execSeByte (x : Reg) (nn : Byte) (s : State) : Host.Outcome State Fault Refusal :=
  .next (s.skipIf (s.readV x == nn))

/-- R132: `4XNN`, skip if V[X] ≠ NN. -/
def execSneByte (x : Reg) (nn : Byte) (s : State) : Host.Outcome State Fault Refusal :=
  .next (s.skipIf (s.readV x != nn))

/-- R133: `5XY0`, skip if V[X] = V[Y]. -/
def execSeReg (x y : Reg) (s : State) : Host.Outcome State Fault Refusal :=
  .next (s.skipIf (s.readV x == s.readV y))

/-- R134: `9XY0`, skip if V[X] ≠ V[Y]. -/
def execSneReg (x y : Reg) (s : State) : Host.Outcome State Fault Refusal :=
  .next (s.skipIf (s.readV x != s.readV y))

/-- R135, R136: the sampled key is one, and equals V[X] as a number (no key is ≥ 16). -/
def State.keyIs (s : State) (x : Reg) : Bool :=
  match s.sampleKey with
  | some k => k.val == (s.readV x).toNat
  | none => false

/-- R135: `EX9E`, skip if a key is pressed and equals V[X]. -/
def execSkp (x : Reg) (s : State) : Host.Outcome State Fault Refusal :=
  .next (s.skipIf (s.keyIs x))

/-- R136: `EXA1`, skip if no key is pressed or it differs from V[X]. -/
def execSknp (x : Reg) (s : State) : Host.Outcome State Fault Refusal :=
  .next (s.skipIf (!s.keyIs x))

end Sys2Proof.Machine
end

