-- ==== Sys2Proof/Machine/TimerInput.lean ====
section
/-! DEFINITION. Timer and key-wait instructions (46_timer_input.md). -/

namespace Sys2Proof.Machine

/-- R180: `FX07`, `V[X] <- DT`, after this cycle's tick (R107). -/
def execLdFromDT (x : Reg) (s : State) : Host.Outcome State Fault Refusal :=
  .next (s.writeV x s.dt)

/-- R181: `FX15`, `DT <- V[X]`; DT_LAST is not changed. -/
def execLdDT (x : Reg) (s : State) : Host.Outcome State Fault Refusal :=
  .next (s.writeDT (s.readV x))

/-- R182: `FX0A`, the key to V[X], or ST = WAIT(X) when there is none. -/
def execWaitKey (x : Reg) (s : State) : Host.Outcome State Fault Refusal :=
  .next (s.beginWait x)

/-- R183: `FX18`, the sound timer: nothing, and no diagnostic. -/
def execLdST (_x : Reg) (s : State) : Host.Outcome State Fault Refusal :=
  .next s

end Sys2Proof.Machine
end

