-- ==== Sys2Proof/Machine/Cycle.lean ====
section
/-! DEFINITION. The phases of a cycle (40_cycle.md), the meaning of an unrecognized word, and what the host does on
the input ports between two steps. -/

namespace Sys2Proof.Machine

/-- R102: the guard of a cycle, pc < `MEM_SIZE` - 1. -/
def State.guardPasses (s : State) : Bool := decide (s.pc.toNat < Config.memSize - 1)

/-- R104: after the fetch, `pc <- pc + 2`. -/
def State.advance (s : State) : State := s.writePc (s.pc + BitVec.ofNat 16 Config.insnBytes)

/-- R101: the state in which an instruction executes, after the tick and the advance. -/
def State.ready (s : State) : State := (s.timerTick Config.clockHz).advance

/-- R108: UNRECOGNIZED, a no-op that emits `Diag(op, a)`. -/
def execUnrecognized (op a : Word) (s : State) : Host.Outcome State Fault Refusal :=
  .next (s.emitDiag { word := op, addr := a })

/-- R35, R40: after a step the host puts the next values on the ports: the next of its listed inputs, or, when the
list has run out, free values (log entry 6). -/
def State.nextInputs (s : State) : State :=
  match s.hostInputs with
  | inp :: rest => { s.setPorts inp with hostInputs := rest }
  | [] =>
    { s.setPorts { now := s.now + Config.hostElapsed s.freeDraws
                   key := Config.hostKey s.freeDraws
                   rand := Config.hostRand s.freeDraws } with freeDraws := s.freeDraws + 1 }

/-- The end of a step: the load port is closed from the first step on (D22), and the host moves the ports. -/
def State.endStep (s : State) : State := { s.nextInputs with started := true }

/-- The end of a step whose execute phase gave an outcome. -/
def finish : Host.Outcome State Fault Refusal → Host.Outcome State Fault Refusal
  | .next t => .next t.endStep
  | .fault f => .fault f
  | .refused r => .refused r

/-- R105, R106: decode and execute the word fetched from `a`, in the state after the tick and the advance. -/
def decodeAndExecute (bytes : List Byte) (op a : Word) (s : State) : Host.Outcome State Fault Refusal :=
  match decodeBytes bytes with
  | .ok (i, _) => exec i s
  | .error _ => execUnrecognized op a s

/-- R101: one cycle: guard, tick, fetch, advance, decode, execute. -/
def cycle (s : State) : Host.Outcome State Fault Refusal :=
  if s.guardPasses then
    decodeAndExecute ((s.timerTick Config.clockHz).fetchBytes s.pc) ((s.timerTick Config.clockHz).fetch16 s.pc) s.pc
      s.ready
  else .next (s.raise .pcExhausted)

/-- The state made ready to fetch at pc: ST = RUN and a pc that passes the guard. -/
def State.readyToFetch (s : State) : State :=
  let t := s.writeStatus .run
  if t.guardPasses then t else t.writePc (BitVec.ofNat 16 Config.progBase)

/-- A word stored at pc, high byte first (R55). -/
def State.storeWordAtPc (s : State) (op : Word) : State :=
  s.writeMem (s.mem.writeList s.pc.toNat [highByte op, lowByte op])

end Sys2Proof.Machine
end

