-- ==== Sys2Proof/Machine/Step.lean ====
section
/-! DEFINITION. One step of the engine (R100), and the placing of an instruction where the step fetches next. -/

namespace Sys2Proof.Machine

/-- R100: a step is a cycle in RUN, a poll in WAIT(x), and nothing in HALT (R205). -/
def step (s : State) : Host.Outcome State Fault Refusal :=
  match s.status with
  | .run => finish (cycle s)
  | .wait x => finish (.next (s.poll x))
  | .halt _ => .next s

/-- `s` with an instruction of the opcode table stored where the next step fetches, ST and pc being such that the
next step does fetch (log entry 15). -/
def State.withFetchWord (s : State) (nbits w : Nat) : State :=
  s.readyToFetch.storeWordAtPc (tableWord nbits w)

end Sys2Proof.Machine
end

