-- ==== Sys2Proof/Safety.lean ====
section
/-! DEFINITION. What statements about this machine are said with: the invariant of its runs, the states a run can
reach, a halted and a parked machine (R110), and the sprite as a picture of cells (R172, R173). -/

namespace Sys2Proof.Machine

/-- What holds in every state a run reaches: the memory keeps its canonical form, the stack pointer stays within the
stack's capacity (R26), every return address is the address after a call (at most 0x1000, R121), and pc stays within
0x10FE (R25). -/
structure State.Inv (s : State) : Prop where
  memWf : s.mem.wf
  spListed : s.sp ≤ s.stack.length
  stackBounded : s.stack.length ≤ Config.stackDepth
  returnsBounded : ∀ e ∈ s.stack, e.toNat ≤ 0x1000
  pcBounded : s.pc.toNat ≤ 0x10FE

/-- R40, D25: the host's listed clock values never decrease, starting from `t`. -/
def clockRises : Nat → List HostInput → Prop
  | _, [] => True
  | t, inp :: rest => t ≤ inp.now ∧ clockRises inp.now rest

/-- D25: the host keeps its duty on the clock, and the timer's last decrement is not in the future. -/
structure State.ClockOk (s : State) : Prop where
  lastPast : s.dtLast ≤ s.now
  rises : clockRises s.now s.hostInputs

/-- R200, R205: the machine has stopped for good. -/
def State.Halted (s : State) : Prop := ∃ r, s.status = .halt r

/-- R110: parked at `p`: RUN, with a jump to itself under pc. -/
structure State.Parked (s : State) (p : Addr12) : Prop where
  running : s.status = .run
  atP : s.pc = p.setWidth 16
  below : p.toNat ≤ 0x0FFE
  jump : s.fetch16 s.pc = 0x1000 ||| p.setWidth 16

/-- A state that some number of steps from `s` leads to. -/
inductive Reaches (s : State) : State → Prop where
  | refl : Reaches s s
  | next {t u : State} : Reaches s t → step t = .next u → Reaches s u

/-- `t` with the host's side of `s`: its ports, its pending inputs and the load port's state. What is left of `t` is
the state the engine owns (R41). -/
def State.withHostOf (t s : State) : State :=
  { t with now := s.now, key := s.key, rand := s.rand, hostInputs := s.hostInputs, freeDraws := s.freeDraws,
           started := s.started }

/-- R172, R173: the sprite bit that falls on display row `r` and column `c` when `rows` are drawn at (`x`, `y`): bit
7 - (c - x) of sprite row r - y, and 0 where the sprite does not reach. -/
def spriteBit (x y : Nat) (rows : List Byte) (r c : Nat) : Bool :=
  decide (y ≤ r) && decide (x ≤ c) && decide (c < x + 8) && (rows.getD (r - y) 0).getLsbD (7 - (c - x))

end Sys2Proof.Machine
end

