-- ==== Sys2Proof/Certificates/Slice0/Obligations.lean ====
section
/-! DEFINITION. The statements about this machine. A statement of an instruction gives its fixed encoding bits, that
`exec` answers a next state, what that state holds, and its frame as an equation: the next state with the written
fields put back is the state before, so every register, byte of memory, cell, port and status not named is unchanged.
In the execute phase pc already holds a + 2 (R104). -/

open Sys2Proof Sys2Proof.Machine

/-! ## Creation, loading and boot -/

/-- R39: every piece of state at creation, for every INIT and every host-clock time t0. -/
def Obligations.CreationHoldsTheStatedValues : Prop :=
  ∀ (init : Init) (t0 : Nat),
    (∀ a, (State.create init t0).mem.read a = 0) ∧ (State.create init t0).pc = 0x200 ∧
    (∀ x, (State.create init t0).readV x = init.v[x.val]) ∧ (State.create init t0).i = init.i ∧
    (State.create init t0).sp = 0 ∧ (∀ k, (State.create init t0).stackEntry k = Config.stackInit k) ∧
    (State.create init t0).dt = init.dt ∧ (State.create init t0).dtLast = t0 ∧
    (∀ r c, (State.create init t0).disp.cell r c = init.disp.cell r c) ∧
    (State.create init t0).status = .run ∧ (State.create init t0).key = none

/-- The reset state meets both invariants. Its INIT of zero and t0 = 0 are the model's choice (log entries 1 and 8),
and the statement does not rest on them. -/
def Obligations.ResetMeetsBothInvariants : Prop :=
  State.reset.Inv ∧ State.reset.ClockOk

/-- R233, D22: the load port: closed after the first step, LoadError when the bytes do not fit, and otherwise exactly
the bytes of the load are written. Every step of a machine that has not halted closes the port. -/
def Obligations.LoadPortWritesExactlyItsBytes : Prop :=
  (∀ (s : State) (offset : Nat) (bytes : List Byte),
    (s.started = true → s.load offset bytes = .refused .loadAfterFirstStep) ∧
    (s.started = false → 4096 < offset + bytes.length → s.load offset bytes = .fault .loadError) ∧
    (s.started = false → offset + bytes.length ≤ 4096 →
      ∃ t, s.load offset bytes = .next t ∧
        (∀ (k : Nat) (h : k < bytes.length), t.mem.read (offset + k) = bytes[k]) ∧
        (∀ a, a < offset ∨ offset + bytes.length ≤ a → t.mem.read a = s.mem.read a) ∧
        { t with mem := s.mem } = s)) ∧
  (∀ s t : State, step s = .next t → ¬ s.Halted → t.started = true)

/-- R230 to R232: after creation, the font load and the ROM load, every address holds its ROM byte, else its font
byte, else 0, and nothing but the memory differs from creation. -/
def Obligations.BootPlacesFontAndRom : Prop :=
  ∀ (init : Init) (t0 : Nat) (font rom : List Byte), font.length ≤ 4096 → rom.length ≤ 3584 →
    ∃ s, boot init t0 font rom = .next s ∧
      (∀ a, s.mem.read a =
        if 0x200 ≤ a ∧ a < 0x200 + rom.length then rom.getD (a - 0x200) 0 else font.getD a 0) ∧
      { s with mem := [] } = State.create init t0

/-! ## Decoding -/

/-- Words written out from R71 and R76, one of each format and family, decode to their instructions. -/
def Obligations.WordsOfTheTableDecode : Prop :=
  decode 0x00E0 = .ok .cls ∧ decode 0x2ABC = .ok (.callAddr 0xABC) ∧ decode 0x3F42 = .ok (.seByte 15 0x42) ∧
  decode 0x81F7 = .ok (.subnReg 1 15) ∧ decode 0xD125 = .ok (.drw 1 2 5) ∧ decode 0xE7A1 = .ok (.sknp 7) ∧
  decode 0xFC0A = .ok (.waitKey 12) ∧ decode 0xF965 = .ok (.loadRegs 9)

/-- Decoding the encoding of any instruction gives it back, with every operand at every value. -/
def Obligations.DecodeOfEncodeIsTheInstruction : Prop :=
  ∀ i : Instr, i.wf = true → decode (encode i) = .ok i ∧ decodeBytes (encodeBytes i) = .ok (i, [])

/-- Each word has one meaning: a word that decodes to an instruction is that instruction's encoding. -/
def Obligations.EncodeOfDecodeIsTheWord : Prop :=
  ∀ (op : Word) (i : Instr), decode op = .ok i → encode i = op

/-- R74: decoding is total: the one row that accepts a word gives its instruction, a word that no row accepts is
UNRECOGNIZED, and no two of the 34 rows accept the same word. -/
def Obligations.DecodingIsTotalAndUnambiguous : Prop :=
  (∀ op : Word, (∃ i, decode op = .ok i) ∨ decode op = .error (.unrecognized op)) ∧
  opcodeTable.length = 34 ∧
  (∀ (r : OpcodeRow) (op : Word), r ∈ opcodeTable → op &&& r.maskBits = r.matchBits → decode op = .ok (r.build op)) ∧
  (∀ op : Word, (∀ r ∈ opcodeTable, op &&& r.maskBits ≠ r.matchBits) → decode op = .error (.unrecognized op)) ∧
  opcodeTable.Pairwise (fun q r => ∀ op : Word, ¬ (op &&& q.maskBits = q.matchBits ∧ op &&& r.maskBits = r.matchBits))

/-- The table of R75, row by row: exactly which words are unrecognized. -/
def Obligations.UnrecognizedWordsAreExactlyThese : Prop :=
  ∀ op : Word, decode op = .error (.unrecognized op) ↔
    (op.toNat ≤ 0x0FFF ∧ op ≠ 0x00E0 ∧ op ≠ 0x00EE) ∨
    (op.toNat / 4096 = 5 ∧ fieldN op ≠ 0) ∨
    (op.toNat / 4096 = 8 ∧ fieldN op ∈ [8, 9, 10, 11, 12, 13, 15]) ∨
    (op.toNat / 4096 = 9 ∧ fieldN op ≠ 0) ∨
    (op.toNat / 4096 = 14 ∧ fieldNN op ∉ [0x9E, 0xA1]) ∨
    (op.toNat / 4096 = 15 ∧ fieldNN op ∉ [0x07, 0x0A, 0x15, 0x18, 0x1E, 0x29, 0x33, 0x55, 0x65])

/-! ## The step -/

/-- R101 to R106: in RUN, when the two bytes at pc decode to an instruction, the step ticks the timer, adds 2 to pc,
executes that instruction, and then the host moves its ports. -/
def Obligations.StepRunsTheDecodedInstruction : Prop :=
  ∀ (s : State) (i : Instr), s.status = .run → s.pc.toNat < 4095 → i.wf = true →
    decodeBytes [s.mem.read s.pc.toNat, s.mem.read (s.pc.toNat + 1)] = .ok (i, []) →
    step s =
      match exec i
        (if s.dt ≠ 0 ∧ Config.clockHz ≤ (s.now - s.dtLast) * 60
          then { s with pc := s.pc + 2, dt := s.dt - 1, dtLast := s.now } else { s with pc := s.pc + 2 }) with
      | .next t => .next t.endStep
      | .fault f => .fault f
      | .refused r => .refused r

/-- R108: a word that matches no row is a no-op with one diagnostic: pc moves on by 2, the timer may tick, and nothing
else of the engine changes. -/
def Obligations.UnrecognizedWordEmitsADiagnostic : Prop :=
  ∀ (s : State), s.status = .run → s.pc.toNat < 4095 →
    decode (s.fetch16 s.pc) = .error (.unrecognized (s.fetch16 s.pc)) →
    ∃ t, step s = .next t ∧ t.pc = s.pc + 2 ∧ t.diags = { word := s.fetch16 s.pc, addr := s.pc } :: s.diags ∧
      ((t.dt = s.dt ∧ t.dtLast = s.dtLast) ∨
        (s.dt ≠ 0 ∧ t.dt.toNat = s.dt.toNat - 1 ∧ t.dtLast = s.now ∧ Config.clockHz ≤ (s.now - s.dtLast) * 60)) ∧
      { t.withHostOf s with pc := s.pc, dt := s.dt, dtLast := s.dtLast, diags := s.diags } = s

/-- R102, R201: the guard: in RUN with pc ≥ 0x0FFF the step raises PcExhausted and changes nothing else, and with
pc ≤ 0x0FFE, odd or even, no step raises it. -/
def Obligations.GuardRaisesPcExhausted : Prop :=
  (∀ s : State, s.status = .run → 0x0FFF ≤ s.pc.toNat →
    ∃ t, step s = .next t ∧ t.withHostOf s = { s with status := .halt .pcExhausted }) ∧
  (∀ s t : State, s.status = .run → s.pc.toNat ≤ 0x0FFE → step s = .next t → t.status ≠ .halt .pcExhausted)

/-- R205: once halted, no number of steps changes anything. -/
def Obligations.HaltedMachineStaysAsItIs : Prop :=
  ∀ (s : State) (n : Nat), s.Halted → Sys2Proof.core.run n s = .next s

/-- R106, R205, R209, R210: a fatal of an instruction is precise (nothing but the status changes), and each reason has
its one kind of instruction and its one condition. -/
def Obligations.FatalsArePreciseAndHaveOneCause : Prop :=
  ∀ (i : Instr) (s t : State) (r : HaltReason), s.status = .run → exec i s = .next t → t.status = .halt r →
    t = { s with status := .halt r } ∧
    ((r = .stackOverflow ∧ s.sp = Config.stackDepth ∧ ∃ nnn, i = .callAddr nnn) ∨
     (r = .stackUnderflow ∧ s.sp = 0 ∧ i = .ret) ∨
     (r = .memoryRange ∧
       ((∃ x, i = .ldB x ∧ 4096 ≤ s.i.toNat + 2) ∨ (∃ x, i = .storeRegs x ∧ 4096 ≤ s.i.toNat + x.val) ∨
        (∃ x, i = .loadRegs x ∧ 4096 ≤ s.i.toNat + x.val) ∨
        (∃ x y n, i = .drw x y n ∧ 0 < n.val ∧ 4096 ≤ s.i.toNat + (n.val - 1)))) ∨
     (r = .indexOverflow ∧ Config.iOverflow = .fault ∧ ∃ x, i = .addI x ∧ 0xFFFF < s.i.toNat + (s.readV x).toNat))

/-- Every step of every state answers a next state: this machine never stops outside its own status. -/
def Obligations.EveryStepAnswersANextState : Prop :=
  ∀ s : State, ∃ t, step s = .next t

/-- R110: a parked machine stays parked, and only the timer (and the host) moves. -/
def Obligations.ParkedMachineStaysParked : Prop :=
  ∀ (s : State) (p : Addr12), s.Parked p →
    ∃ t, step s = .next t ∧ t.Parked p ∧ { t.withHostOf s with dt := s.dt, dtLast := s.dtLast } = s

/-! ## Invariants -/

/-- Every step keeps the invariant, from every state that meets it. -/
def Obligations.EveryStepKeepsTheInvariant : Prop :=
  ∀ s t : State, s.Inv → step s = .next t → t.Inv

/-- Every state that a run of any ROM with any font, INIT and t0 reaches meets the invariant: the stack pointer within
the capacity, pc within 0x10FE, the memory canonical. -/
def Obligations.EveryBootedRunKeepsTheInvariant : Prop :=
  ∀ (init : Init) (t0 : Nat) (font rom : List Byte) (s t : State),
    boot init t0 font rom = .next s → Reaches s t →
    t.Inv ∧ t.sp ≤ Config.stackDepth ∧ t.pc.toNat ≤ 0x10FE

/-- D25: while the host's clock never decreases, the timer's last decrement is never in the future. -/
def Obligations.EveryStepKeepsTheClockInOrder : Prop :=
  ∀ s t : State, s.ClockOk → step s = .next t → t.ClockOk ∧ s.now ≤ t.now

/-- R213: a step that does not run FX15 leaves DT alone or decrements it by exactly 1; it decrements only in RUN, only
a DT that is not 0, only an interval of 1/60 s or more after DT_LAST, and then DT_LAST is the time of the decrement. -/
def Obligations.TimerFallsByAtMostOnePerInterval : Prop :=
  ∀ s t : State, step s = .next t → (∀ x, decode (s.fetch16 s.pc) ≠ .ok (.ldDT x)) →
    (t.dt = s.dt ∧ t.dtLast = s.dtLast) ∨
    (s.status = .run ∧ s.dt ≠ 0 ∧ t.dt.toNat + 1 = s.dt.toNat ∧ t.dtLast = s.now ∧
      Config.clockHz ≤ (s.now - s.dtLast) * 60)

/-- R212: the tick, for every clock rate: when DT is not 0 and one interval has passed it decrements DT and moves
DT_LAST to `now`, and otherwise it changes nothing. -/
def Obligations.TimerTickDecrementsWhenDue : Prop :=
  ∀ (s : State) (hz : Nat),
    (s.dt ≠ 0 → hz ≤ (s.now - s.dtLast) * 60 →
      (s.timerTick hz).dt.toNat = s.dt.toNat - 1 ∧ (s.timerTick hz).dtLast = s.now ∧
      { s.timerTick hz with dt := s.dt, dtLast := s.dtLast } = s) ∧
    (s.dt = 0 ∨ (s.now - s.dtLast) * 60 < hz → s.timerTick hz = s)

/-! ## Jumps, calls and returns -/

/-- R120: 1NNN. -/
def Obligations.JumpLoadsThePc : Prop :=
  ∀ (nnn : Addr12) (s : State),
    encode (.jpAddr nnn) &&& 0xF000 = 0x1000 ∧
    ∃ t, exec (.jpAddr nnn) s = .next t ∧ t.pc.toNat = nnn.toNat ∧ { t with pc := s.pc } = s

/-- R121, R27: 2NNN pushes pc and jumps, or overflows with nothing pushed and pc where it was. -/
def Obligations.CallPushesThePcAndJumps : Prop :=
  ∀ (nnn : Addr12) (s : State),
    encode (.callAddr nnn) &&& 0xF000 = 0x2000 ∧
    (s.sp ≠ Config.stackDepth →
      ∃ t, exec (.callAddr nnn) s = .next t ∧ t.stackEntry s.sp = s.pc ∧ t.sp = s.sp + 1 ∧ t.pc.toNat = nnn.toNat ∧
        (∀ k, k ≠ s.sp → t.stackEntry k = s.stackEntry k) ∧
        { t with stack := s.stack, sp := s.sp, pc := s.pc } = s) ∧
    (s.sp = Config.stackDepth → exec (.callAddr nnn) s = .next { s with status := .halt .stackOverflow })

/-- R122, R28: 00EE pops pc, or underflows with pc where it was. -/
def Obligations.ReturnPopsThePc : Prop :=
  ∀ s : State,
    encode .ret &&& 0xFFFF = 0x00EE ∧
    (s.sp ≠ 0 →
      ∃ t, exec .ret s = .next t ∧ t.sp + 1 = s.sp ∧ t.pc = s.stackEntry t.sp ∧
        { t with sp := s.sp, pc := s.pc } = s) ∧
    (s.sp = 0 → exec .ret s = .next { s with status := .halt .stackUnderflow })

/-- R122 (its corner case): a return after a call lands on the instruction after the call, with the stack pointer as
it was, whatever ran between as long as the stack is as the call left it. -/
def Obligations.ReturnComesBackAfterTheCall : Prop :=
  ∀ (nnn : Addr12) (s t u : State), s.sp ≠ Config.stackDepth → exec (.callAddr nnn) s = .next t →
    u.stack = t.stack → u.sp = t.sp →
    ∃ w, exec .ret u = .next w ∧ w.pc = s.pc ∧ w.sp = s.sp ∧ ∀ k, k < s.sp → w.stackEntry k = s.stackEntry k

/-- R123: BNNN adds V0 exactly, with no wrap. -/
def Obligations.OffsetJumpAddsV0 : Prop :=
  ∀ (nnn : Addr12) (s : State),
    encode (.jpV0 nnn) &&& 0xF000 = 0xB000 ∧
    ∃ t, exec (.jpV0 nnn) s = .next t ∧ t.pc.toNat = nnn.toNat + (s.readV 0).toNat ∧ t.pc.toNat ≤ 0x10FE ∧
      { t with pc := s.pc } = s

/-! ## Skips -/

/-- R131, R132: 3XNN and 4XNN; exactly one of the two skips. -/
def Obligations.ByteSkipsCompareWithTheByte : Prop :=
  ∀ (x : Reg) (nn : Byte) (s : State),
    encode (.seByte x nn) &&& 0xF000 = 0x3000 ∧ encode (.sneByte x nn) &&& 0xF000 = 0x4000 ∧
    ∃ t u, exec (.seByte x nn) s = .next t ∧ exec (.sneByte x nn) s = .next u ∧
      t.pc = (if s.readV x = nn then s.pc + 2 else s.pc) ∧ { t with pc := s.pc } = s ∧
      u.pc = (if s.readV x = nn then s.pc else s.pc + 2) ∧ { u with pc := s.pc } = s

/-- R133, R134: 5XY0 and 9XY0; 5XYn and 9XYn with n ≠ 0 are unrecognized. -/
def Obligations.RegisterSkipsCompareRegisters : Prop :=
  (∀ op : Word, (op.toNat / 4096 = 5 ∨ op.toNat / 4096 = 9) → fieldN op ≠ 0 →
    decode op = .error (.unrecognized op)) ∧
  ∀ (x y : Reg) (s : State),
    encode (.seReg x y) &&& 0xF00F = 0x5000 ∧ encode (.sneReg x y) &&& 0xF00F = 0x9000 ∧
    ∃ t u, exec (.seReg x y) s = .next t ∧ exec (.sneReg x y) s = .next u ∧
      t.pc = (if s.readV x = s.readV y then s.pc + 2 else s.pc) ∧ { t with pc := s.pc } = s ∧
      u.pc = (if s.readV x = s.readV y then s.pc else s.pc + 2) ∧ { u with pc := s.pc } = s

/-- R135, R136: EX9E and EXA1 against the sampled key; none and a V[X] of 16 or more count as different. -/
def Obligations.KeySkipsCompareWithTheKey : Prop :=
  ∀ (x : Reg) (s : State),
    encode (.skp x) &&& 0xF0FF = 0xE09E ∧ encode (.sknp x) &&& 0xF0FF = 0xE0A1 ∧
    ∃ t u, exec (.skp x) s = .next t ∧ exec (.sknp x) s = .next u ∧
      (s.key.map Fin.val = some (s.readV x).toNat → t.pc = s.pc + 2 ∧ u.pc = s.pc) ∧
      (s.key.map Fin.val ≠ some (s.readV x).toNat → t.pc = s.pc ∧ u.pc = s.pc + 2) ∧
      (s.key = none ∨ 16 ≤ (s.readV x).toNat → t.pc = s.pc ∧ u.pc = s.pc + 2) ∧
      { t with pc := s.pc } = s ∧ { u with pc := s.pc } = s

/-! ## Registers, arithmetic and logic -/

/-- R142, R144: 6XNN and 8XY0 write V[X] and nothing else. -/
def Obligations.LoadsWriteTheRegister : Prop :=
  ∀ (x y : Reg) (nn : Byte) (s : State),
    encode (.ldByte x nn) &&& 0xF000 = 0x6000 ∧ encode (.ldReg x y) &&& 0xF00F = 0x8000 ∧
    ∃ t u, exec (.ldByte x nn) s = .next t ∧ exec (.ldReg x y) s = .next u ∧
      t.readV x = nn ∧ (∀ z, z ≠ x → t.readV z = s.readV z) ∧ { t with v := s.v } = s ∧
      u.readV x = s.readV y ∧ (∀ z, z ≠ x → u.readV z = s.readV z) ∧ { u with v := s.v } = s

/-- R143: 7XNN wraps and sets no flag. -/
def Obligations.AddByteWrapsWithoutAFlag : Prop :=
  ∀ (x : Reg) (nn : Byte) (s : State),
    encode (.addByte x nn) &&& 0xF000 = 0x7000 ∧
    ∃ t, exec (.addByte x nn) s = .next t ∧ (t.readV x).toNat = ((s.readV x).toNat + nn.toNat) % 256 ∧
      (∀ z, z ≠ x → t.readV z = s.readV z) ∧ { t with v := s.v } = s

/-- R145, R146, R147: 8XY1, 8XY2 and 8XY3, bit by bit; VF changes only as the destination. -/
def Obligations.LogicWorksBitByBit : Prop :=
  ∀ (x y : Reg) (s : State),
    encode (.orReg x y) &&& 0xF00F = 0x8001 ∧ encode (.andReg x y) &&& 0xF00F = 0x8002 ∧
    encode (.xorReg x y) &&& 0xF00F = 0x8003 ∧
    ∃ t u w, exec (.orReg x y) s = .next t ∧ exec (.andReg x y) s = .next u ∧ exec (.xorReg x y) s = .next w ∧
      (∀ k, (t.readV x).getLsbD k = ((s.readV x).getLsbD k || (s.readV y).getLsbD k)) ∧
      (∀ k, (u.readV x).getLsbD k = ((s.readV x).getLsbD k && (s.readV y).getLsbD k)) ∧
      (∀ k, (w.readV x).getLsbD k = ((s.readV x).getLsbD k ^^ (s.readV y).getLsbD k)) ∧
      (∀ z, z ≠ x → t.readV z = s.readV z ∧ u.readV z = s.readV z ∧ w.readV z = s.readV z) ∧
      { t with v := s.v } = s ∧ { u with v := s.v } = s ∧ { w with v := s.v } = s

/-- R149, R141: 8XY4: the sum modulo 256 in V[X], the carry in VF, and VF the carry also when X = 0xF. -/
def Obligations.AddSetsTheCarry : Prop :=
  ∀ (x y : Reg) (s : State),
    encode (.addReg x y) &&& 0xF00F = 0x8004 ∧
    ∃ t, exec (.addReg x y) s = .next t ∧
      t.readV 15 = (if 256 ≤ (s.readV x).toNat + (s.readV y).toNat then 1 else 0) ∧
      (x ≠ 15 → (t.readV x).toNat = ((s.readV x).toNat + (s.readV y).toNat) % 256) ∧
      (∀ z, z ≠ x → z ≠ 15 → t.readV z = s.readV z) ∧ { t with v := s.v } = s

/-- R150, R152, R141: 8XY5 and 8XY7: the wrapped difference in V[X], VF = 1 on borrow. -/
def Obligations.SubtractionsSetTheBorrow : Prop :=
  ∀ (x y : Reg) (s : State),
    encode (.subReg x y) &&& 0xF00F = 0x8005 ∧ encode (.subnReg x y) &&& 0xF00F = 0x8007 ∧
    ∃ t u, exec (.subReg x y) s = .next t ∧ exec (.subnReg x y) s = .next u ∧
      t.readV 15 = (if (s.readV x).toNat < (s.readV y).toNat then 1 else 0) ∧
      (x ≠ 15 → (t.readV x).toNat = ((s.readV x).toNat + 256 - (s.readV y).toNat) % 256) ∧
      u.readV 15 = (if (s.readV y).toNat < (s.readV x).toNat then 1 else 0) ∧
      (x ≠ 15 → (u.readV x).toNat = ((s.readV y).toNat + 256 - (s.readV x).toNat) % 256) ∧
      (∀ z, z ≠ x → z ≠ 15 → t.readV z = s.readV z ∧ u.readV z = s.readV z) ∧
      { t with v := s.v } = s ∧ { u with v := s.v } = s

/-- R151, R153, R141: 8XY6 and 8XYE: V[X] shifted by one, VF the bit shifted out; V[Y] plays no part. -/
def Obligations.ShiftsSetTheBitShiftedOut : Prop :=
  ∀ (x y : Reg) (s : State),
    encode (.shrReg x y) &&& 0xF00F = 0x8006 ∧ encode (.shlReg x y) &&& 0xF00F = 0x800E ∧
    ∃ t u, (∀ y', exec (.shrReg x y') s = .next t) ∧ (∀ y', exec (.shlReg x y') s = .next u) ∧
      (t.readV 15).toNat = (s.readV x).toNat % 2 ∧ (x ≠ 15 → (t.readV x).toNat = (s.readV x).toNat / 2) ∧
      (u.readV 15).toNat = (s.readV x).toNat / 128 ∧ (x ≠ 15 → (u.readV x).toNat = (s.readV x).toNat * 2 % 256) ∧
      (∀ z, z ≠ x → z ≠ 15 → t.readV z = s.readV z ∧ u.readV z = s.readV z) ∧
      { t with v := s.v } = s ∧ { u with v := s.v } = s

/-- R154: the flag identities, for X ≠ 0xF. -/
def Obligations.FlagIdentitiesHold : Prop :=
  ∀ (x y : Reg) (s t : State), x ≠ 15 →
    (exec (.addReg x y) s = .next t →
      (t.readV x).toNat + 256 * (t.readV 15).toNat = (s.readV x).toNat + (s.readV y).toNat) ∧
    (exec (.subReg x y) s = .next t →
      ((t.readV x).toNat : Int) - 256 * (t.readV 15).toNat = (s.readV x).toNat - (s.readV y).toNat) ∧
    (exec (.subnReg x y) s = .next t →
      ((t.readV x).toNat : Int) - 256 * (t.readV 15).toNat = (s.readV y).toNat - (s.readV x).toNat) ∧
    (exec (.shrReg x y) s = .next t → 2 * (t.readV x).toNat + (t.readV 15).toNat = (s.readV x).toNat) ∧
    (exec (.shlReg x y) s = .next t → (t.readV x).toNat + 256 * (t.readV 15).toNat = 2 * (s.readV x).toNat)

/-- R158: CXNN: the random byte of the step under the mask. -/
def Obligations.RandomByteIsMasked : Prop :=
  ∀ (x : Reg) (nn : Byte) (s : State),
    encode (.rnd x nn) &&& 0xF000 = 0xC000 ∧
    ∃ t, exec (.rnd x nn) s = .next t ∧ (∀ k, (t.readV x).getLsbD k = (s.rand.getLsbD k && nn.getLsbD k)) ∧
      (∀ z, z ≠ x → t.readV z = s.readV z) ∧ { t with v := s.v } = s

/-! ## Address register and memory -/

/-- R160, R162: ANNN and FX29 write I, FX29 without masking V[X]. -/
def Obligations.IndexLoadsWriteI : Prop :=
  ∀ (nnn : Addr12) (x : Reg) (s : State),
    encode (.ldI nnn) &&& 0xF000 = 0xA000 ∧ encode (.ldF x) &&& 0xF0FF = 0xF029 ∧
    ∃ t u, exec (.ldI nnn) s = .next t ∧ exec (.ldF x) s = .next u ∧
      t.i.toNat = nnn.toNat ∧ { t with i := s.i } = s ∧
      u.i.toNat = (s.readV x).toNat * 5 ∧ { u with i := s.i } = s

/-- R161: FX1E: the exact sum while it fits in 16 bits, and above that what I_OVERFLOW says; VF is not written. -/
def Obligations.AddToIndexFollowsTheOverflowParameter : Prop :=
  ∀ (x : Reg) (s : State),
    encode (.addI x) &&& 0xF0FF = 0xF01E ∧
    ∃ t, exec (.addI x) s = .next t ∧ { t with i := s.i, status := s.status } = s ∧
      (s.i.toNat + (s.readV x).toNat ≤ 0xFFFF →
        t.i.toNat = s.i.toNat + (s.readV x).toNat ∧ t.status = s.status) ∧
      (0xFFFF < s.i.toNat + (s.readV x).toNat →
        match Config.iOverflow with
        | .wrap16 => t.i.toNat + 0x10000 = s.i.toNat + (s.readV x).toNat ∧ t.status = s.status
        | .fault => t.i = s.i ∧ t.status = .halt .indexOverflow)

/-- R163: FX33: the three decimal digits at I, I + 1 and I + 2, or MemoryRange with nothing written. -/
def Obligations.DecimalDigitsAreStored : Prop :=
  ∀ (x : Reg) (s : State),
    encode (.ldB x) &&& 0xF0FF = 0xF033 ∧
    (s.i.toNat + 2 < 4096 →
      ∃ t, exec (.ldB x) s = .next t ∧
        (t.mem.read s.i.toNat).toNat = (s.readV x).toNat / 100 ∧
        (t.mem.read (s.i.toNat + 1)).toNat = (s.readV x).toNat / 10 % 10 ∧
        (t.mem.read (s.i.toNat + 2)).toNat = (s.readV x).toNat % 10 ∧
        (∀ a, a < s.i.toNat ∨ s.i.toNat + 2 < a → t.mem.read a = s.mem.read a) ∧
        { t with mem := s.mem } = s) ∧
    (4096 ≤ s.i.toNat + 2 → exec (.ldB x) s = .next { s with status := .halt .memoryRange })

/-- R164: FX55: V[0..X] at I .. I + X, or MemoryRange with nothing written; I is unchanged. -/
def Obligations.RegistersAreStored : Prop :=
  ∀ (x : Reg) (s : State),
    encode (.storeRegs x) &&& 0xF0FF = 0xF055 ∧
    (s.i.toNat + x.val < 4096 →
      ∃ t, exec (.storeRegs x) s = .next t ∧
        (∀ k : Reg, k ≤ x → t.mem.read (s.i.toNat + k.val) = s.readV k) ∧
        (∀ a, a < s.i.toNat ∨ s.i.toNat + x.val < a → t.mem.read a = s.mem.read a) ∧
        { t with mem := s.mem } = s) ∧
    (4096 ≤ s.i.toNat + x.val → exec (.storeRegs x) s = .next { s with status := .halt .memoryRange })

/-- R165: FX65: V[0..X] from I .. I + X, or MemoryRange with no register written; I is unchanged. -/
def Obligations.RegistersAreLoaded : Prop :=
  ∀ (x : Reg) (s : State),
    encode (.loadRegs x) &&& 0xF0FF = 0xF065 ∧
    (s.i.toNat + x.val < 4096 →
      ∃ t, exec (.loadRegs x) s = .next t ∧
        (∀ k : Reg, k ≤ x → t.readV k = s.mem.read (s.i.toNat + k.val)) ∧
        (∀ k : Reg, x < k → t.readV k = s.readV k) ∧
        { t with v := s.v } = s) ∧
    (4096 ≤ s.i.toNat + x.val → exec (.loadRegs x) s = .next { s with status := .halt .memoryRange })

/-- R166: FX55 and then FX65 with the same X and I, the stored bytes untouched between them, bring V[0..X] back. -/
def Obligations.StoreThenLoadRestoresRegisters : Prop :=
  ∀ (x : Reg) (s t u : State), s.i.toNat + x.val < 4096 → exec (.storeRegs x) s = .next t → u.i = t.i →
    (∀ a, s.i.toNat ≤ a → a ≤ s.i.toNat + x.val → u.mem.read a = t.mem.read a) →
    ∃ w, exec (.loadRegs x) u = .next w ∧ ∀ k : Reg, k ≤ x → w.readV k = s.readV k

/-- R64: a stored word is what the next fetch at its address reads. -/
def Obligations.StoredBytesAreFetched : Prop :=
  ∀ (x : Reg) (s : State), 1 ≤ x.val → s.i.toNat + x.val < 4096 →
    ∃ t, exec (.storeRegs x) s = .next t ∧ (t.fetch16 s.i).toNat = (s.readV 0).toNat * 256 + (s.readV 1).toNat

/-! ## Display -/

/-- R170: 00E0 clears every cell, as the next read of the display port shows; 0NE0 with N ≠ 0 is unrecognized. -/
def Obligations.ClearTurnsEveryCellOff : Prop :=
  (∀ op : Word, op.toNat / 4096 = 0 → fieldNN op = 0xE0 → fieldX op ≠ 0 → decode op = .error (.unrecognized op)) ∧
  ∀ s : State,
    encode .cls &&& 0xFFFF = 0x00E0 ∧
    ∃ t, exec .cls s = .next t ∧ (∀ r c, t.disp.cell r c = false) ∧ t.displayPort = List.replicate 2048 false ∧
      { t with disp := s.disp } = s

/-- R172, R173, R174: the blit is the XOR of the picture of the sprite, clipped at the right and bottom edges, and it
collides exactly when a sprite bit 1 falls on a lit cell. -/
def Obligations.BlitIsTheClippedXorOfTheSprite : Prop :=
  ∀ (d : Display) (x y : Byte) (rows : List Byte),
    (∀ r c, r < 32 → c < 64 →
      (blit d x y rows).disp.cell r c = (d.cell r c ^^ spriteBit x.toNat y.toNat rows r c)) ∧
    ((blit d x y rows).collided = true ↔
      ∃ r c, r < 32 ∧ c < 64 ∧ spriteBit x.toNat y.toNat rows r c = true ∧ d.cell r c = true)

/-- R171, R175: DXYN: the N bytes from I drawn at (V[X], V[Y]) and the collision in VF, or MemoryRange with neither
the display nor VF changed; with N = 0 nothing is drawn, nothing is range-checked and VF is 0. -/
def Obligations.DrawXorsTheSpriteIntoTheDisplay : Prop :=
  ∀ (x y : Reg) (n : Fin 16) (s : State),
    encode (.drw x y n) &&& 0xF000 = 0xD000 ∧
    (n.val = 0 ∨ s.i.toNat + (n.val - 1) < 4096 →
      ∃ t, exec (.drw x y n) s = .next t ∧
        (∀ r c, r < 32 → c < 64 → t.disp.cell r c =
          (s.disp.cell r c ^^ spriteBit (s.readV x).toNat (s.readV y).toNat
            ((List.range n.val).map (fun k => s.mem.read (s.i.toNat + k))) r c)) ∧
        (t.readV 15 = 0 ∨ t.readV 15 = 1) ∧
        (t.readV 15 = 1 ↔ ∃ r c, r < 32 ∧ c < 64 ∧ s.disp.cell r c = true ∧ t.disp.cell r c = false) ∧
        (∀ z, z ≠ 15 → t.readV z = s.readV z) ∧ { t with v := s.v, disp := s.disp } = s) ∧
    (n.val ≠ 0 → 4096 ≤ s.i.toNat + (n.val - 1) →
      exec (.drw x y n) s = .next { s with status := .halt .memoryRange })

/-- R173: a start beyond the right or the bottom edge draws nothing and does not collide. -/
def Obligations.BlitOutsideTheGridDrawsNothing : Prop :=
  ∀ (d : Display) (x y : Byte) (rows : List Byte), 64 ≤ x.toNat ∨ 32 ≤ y.toNat →
    (blit d x y rows).disp = d ∧ (blit d x y rows).collided = false

/-- R172, R174 (and the first property of R176): drawing the same sprite twice restores the buffer, and the second
draw collides exactly when an unclipped sprite bit 1 lies on a cell that was dark before the first. The second clause
is the model's reading (DEDUCED, log entry 22): it follows from R172 and R174 and is not what R176's second property
says as it is worded. -/
def Obligations.DrawingTwiceRestoresTheDisplay : Prop :=
  ∀ (d : Display) (x y : Byte) (rows : List Byte),
    (blit (blit d x y rows).disp x y rows).disp = d ∧
    ((blit (blit d x y rows).disp x y rows).collided = true ↔
      ∃ r c, r < 32 ∧ c < 64 ∧ spriteBit x.toNat y.toNat rows r c = true ∧ d.cell r c = false)

/-- R176's second property AS THE SPEC WORDS IT: the second draw collides exactly when the sprite has an unclipped 1
bit. It is expected to fail (log entry 22): over a lit cell the first draw erases and the second lights again. -/
def Obligations.SecondDrawCollidesWheneverTheSpriteShows : Prop :=
  ∀ (d : Display) (x y : Byte) (rows : List Byte),
    (blit (blit d x y rows).disp x y rows).collided = true ↔
      ∃ r c, r < 32 ∧ c < 64 ∧ spriteBit x.toNat y.toNat rows r c = true

/-! ## Timer and key wait -/

/-- R180, R181, R183: FX07 reads DT, FX15 writes DT and leaves DT_LAST, FX18 does nothing. -/
def Obligations.TimerInstructionsMoveDT : Prop :=
  ∀ (x : Reg) (s : State),
    encode (.ldFromDT x) &&& 0xF0FF = 0xF007 ∧ encode (.ldDT x) &&& 0xF0FF = 0xF015 ∧
    encode (.ldST x) &&& 0xF0FF = 0xF018 ∧
    ∃ t u, exec (.ldFromDT x) s = .next t ∧ exec (.ldDT x) s = .next u ∧ exec (.ldST x) s = .next s ∧
      t.readV x = s.dt ∧ (∀ z, z ≠ x → t.readV z = s.readV z) ∧ { t with v := s.v } = s ∧
      u.dt = s.readV x ∧ { u with dt := s.dt } = s

/-- R182: FX0A takes a key that is there, and otherwise waits; a step in WAIT(x) polls once, with no guard, no tick
and no fetch, and only a key ends the wait. -/
def Obligations.KeyWaitTakesTheFirstKey : Prop :=
  ∀ (x : Reg) (s : State),
    encode (.waitKey x) &&& 0xF0FF = 0xF00A ∧
    (∀ k, s.key = some k →
      ∃ t, exec (.waitKey x) s = .next t ∧ (t.readV x).toNat = k.val ∧ (∀ z, z ≠ x → t.readV z = s.readV z) ∧
        { t with v := s.v } = s) ∧
    (s.key = none → exec (.waitKey x) s = .next { s with status := .wait x }) ∧
    (∀ k, s.status = .wait x → s.key = some k →
      ∃ t, step s = .next t ∧ (t.readV x).toNat = k.val ∧ (∀ z, z ≠ x → t.readV z = s.readV z) ∧ t.status = .run ∧
        { t.withHostOf s with v := s.v, status := s.status } = s) ∧
    (s.status = .wait x → s.key = none → ∃ t, step s = .next t ∧ t.withHostOf s = s)

/-! ## Rules about the whole machine -/

/-- R22: no instruction but 8XY4 to 8XYE and DXYN changes VF, unless VF is its named destination. -/
def Obligations.OnlyFlagInstructionsOrDestinationsChangeVF : Prop :=
  ∀ (i : Instr) (s t : State), exec i s = .next t → t.readV 15 ≠ s.readV 15 →
    (∃ x y, i = .addReg x y ∨ i = .subReg x y ∨ i = .shrReg x y ∨ i = .subnReg x y ∨ i = .shlReg x y) ∨
    (∃ x y n, i = .drw x y n) ∨
    (∃ nn, i = .ldByte 15 nn ∨ i = .addByte 15 nn ∨ i = .rnd 15 nn) ∨
    (∃ y, i = .ldReg 15 y ∨ i = .orReg 15 y ∨ i = .andReg 15 y ∨ i = .xorReg 15 y) ∨
    i = .ldFromDT 15 ∨ i = .waitKey 15 ∨ i = .loadRegs 15

/-- R23: only ANNN, FX1E and FX29 write I. -/
def Obligations.OnlyThreeInstructionsChangeI : Prop :=
  ∀ (i : Instr) (s t : State), exec i s = .next t → t.i ≠ s.i →
    (∃ nnn, i = .ldI nnn) ∨ (∃ x, i = .addI x) ∨ (∃ x, i = .ldF x)

/-- R25: after the advance, only a taken skip, a jump, a call and a return change pc. -/
def Obligations.OnlyControlTransfersChangeThePc : Prop :=
  ∀ (i : Instr) (s t : State), exec i s = .next t → t.pc ≠ s.pc →
    (t.pc = s.pc + 2 ∧
      ((∃ x nn, i = .seByte x nn ∨ i = .sneByte x nn) ∨ (∃ x y, i = .seReg x y ∨ i = .sneReg x y) ∨
        (∃ x, i = .skp x ∨ i = .sknp x))) ∨
    (∃ nnn, (i = .jpAddr nnn ∨ i = .callAddr nnn) ∧ t.pc.toNat = nnn.toNat) ∨
    (∃ nnn, i = .jpV0 nnn ∧ t.pc.toNat = nnn.toNat + (s.readV 0).toNat) ∨
    (i = .ret ∧ t.pc = s.stackEntry t.sp)

/-- R29: only 2NNN pushes and only 00EE pops. -/
def Obligations.OnlyCallAndReturnTouchTheStack : Prop :=
  ∀ (i : Instr) (s t : State), exec i s = .next t →
    (t.sp = s.sp ∧ t.stack = s.stack) ∨ (i = .ret ∧ t.sp + 1 = s.sp ∧ t.stack = s.stack) ∨
    (∃ nnn, i = .callAddr nnn ∧ t.sp = s.sp + 1)

/-- R33: only 00E0 and DXYN write the display. -/
def Obligations.OnlyClearAndDrawChangeTheDisplay : Prop :=
  ∀ (i : Instr) (s t : State), exec i s = .next t → t.disp ≠ s.disp → i = .cls ∨ ∃ x y n, i = .drw x y n

/-- R51: only FX33 and FX55 write memory. -/
def Obligations.OnlyTwoInstructionsChangeMemory : Prop :=
  ∀ (i : Instr) (s t : State) (a : Nat), exec i s = .next t → t.mem.read a ≠ s.mem.read a →
    (∃ x, i = .ldB x) ∨ ∃ x, i = .storeRegs x

/-- R30, R34, R41, R206: no instruction writes DT_LAST, the input state, any other port of the host or the diagnostic
output, and only FX15 writes DT. -/
def Obligations.NoInstructionTouchesTheHostOrTheTimestamp : Prop :=
  ∀ (i : Instr) (s t : State), exec i s = .next t →
    t.withHostOf s = t ∧ t.dtLast = s.dtLast ∧ t.diags = s.diags ∧ (t.dt = s.dt ∨ ∃ x, i = .ldDT x)

/-- R40: the random byte is consumed only by CXNN, and R51, R34: the key only by EX9E, EXA1 and FX0A. Every other
instruction does the same whatever is on the port. -/
def Obligations.PortsAreReadOnlyByTheirInstructions : Prop :=
  (∀ (i : Instr) (s t : State) (b : Byte), (∀ x nn, i ≠ .rnd x nn) → exec i s = .next t →
    exec i { s with rand := b } = .next { t with rand := b }) ∧
  (∀ (i : Instr) (s t : State) (k : Option HexKey),
    (∀ x, i ≠ .skp x ∧ i ≠ .sknp x ∧ i ≠ .waitKey x) → exec i s = .next t →
    exec i { s with key := k } = .next { t with key := k })
end

