-- ==== Sys2Proof/Laws/State.lean ====
section
/-! SUPPORT. One lemma per field of State per named update: what the field is afterwards. Each is true by rfl, so no
later proof unfolds a record update. -/

namespace Sys2Proof.Machine

section
variable (s : State)

/-! ### writeV -/

@[simp] theorem State.writeV_v (x : Reg) (b : Byte) : (s.writeV x b).v = s.v.set x.val b := rfl
@[simp] theorem State.writeV_i (x : Reg) (b : Byte) : (s.writeV x b).i = s.i := rfl
@[simp] theorem State.writeV_pc (x : Reg) (b : Byte) : (s.writeV x b).pc = s.pc := rfl
@[simp] theorem State.writeV_stack (x : Reg) (b : Byte) : (s.writeV x b).stack = s.stack := rfl
@[simp] theorem State.writeV_sp (x : Reg) (b : Byte) : (s.writeV x b).sp = s.sp := rfl
@[simp] theorem State.writeV_dt (x : Reg) (b : Byte) : (s.writeV x b).dt = s.dt := rfl
@[simp] theorem State.writeV_dtLast (x : Reg) (b : Byte) : (s.writeV x b).dtLast = s.dtLast := rfl
@[simp] theorem State.writeV_mem (x : Reg) (b : Byte) : (s.writeV x b).mem = s.mem := rfl
@[simp] theorem State.writeV_disp (x : Reg) (b : Byte) : (s.writeV x b).disp = s.disp := rfl
@[simp] theorem State.writeV_status (x : Reg) (b : Byte) : (s.writeV x b).status = s.status := rfl
@[simp] theorem State.writeV_now (x : Reg) (b : Byte) : (s.writeV x b).now = s.now := rfl
@[simp] theorem State.writeV_key (x : Reg) (b : Byte) : (s.writeV x b).key = s.key := rfl
@[simp] theorem State.writeV_rand (x : Reg) (b : Byte) : (s.writeV x b).rand = s.rand := rfl
@[simp] theorem State.writeV_hostInputs (x : Reg) (b : Byte) : (s.writeV x b).hostInputs = s.hostInputs := rfl
@[simp] theorem State.writeV_freeDraws (x : Reg) (b : Byte) : (s.writeV x b).freeDraws = s.freeDraws := rfl
@[simp] theorem State.writeV_started (x : Reg) (b : Byte) : (s.writeV x b).started = s.started := rfl
@[simp] theorem State.writeV_diags (x : Reg) (b : Byte) : (s.writeV x b).diags = s.diags := rfl

/-! ### writeI -/

@[simp] theorem State.writeI_v (w : Word) : (s.writeI w).v = s.v := rfl
@[simp] theorem State.writeI_i (w : Word) : (s.writeI w).i = w := rfl
@[simp] theorem State.writeI_pc (w : Word) : (s.writeI w).pc = s.pc := rfl
@[simp] theorem State.writeI_stack (w : Word) : (s.writeI w).stack = s.stack := rfl
@[simp] theorem State.writeI_sp (w : Word) : (s.writeI w).sp = s.sp := rfl
@[simp] theorem State.writeI_dt (w : Word) : (s.writeI w).dt = s.dt := rfl
@[simp] theorem State.writeI_dtLast (w : Word) : (s.writeI w).dtLast = s.dtLast := rfl
@[simp] theorem State.writeI_mem (w : Word) : (s.writeI w).mem = s.mem := rfl
@[simp] theorem State.writeI_disp (w : Word) : (s.writeI w).disp = s.disp := rfl
@[simp] theorem State.writeI_status (w : Word) : (s.writeI w).status = s.status := rfl
@[simp] theorem State.writeI_now (w : Word) : (s.writeI w).now = s.now := rfl
@[simp] theorem State.writeI_key (w : Word) : (s.writeI w).key = s.key := rfl
@[simp] theorem State.writeI_rand (w : Word) : (s.writeI w).rand = s.rand := rfl
@[simp] theorem State.writeI_hostInputs (w : Word) : (s.writeI w).hostInputs = s.hostInputs := rfl
@[simp] theorem State.writeI_freeDraws (w : Word) : (s.writeI w).freeDraws = s.freeDraws := rfl
@[simp] theorem State.writeI_started (w : Word) : (s.writeI w).started = s.started := rfl
@[simp] theorem State.writeI_diags (w : Word) : (s.writeI w).diags = s.diags := rfl
@[simp] theorem State.readV_writeI (w : Word) (y : Reg) : (s.writeI w).readV y = s.readV y := rfl

/-! ### writePc -/

@[simp] theorem State.writePc_v (w : Word) : (s.writePc w).v = s.v := rfl
@[simp] theorem State.writePc_i (w : Word) : (s.writePc w).i = s.i := rfl
@[simp] theorem State.writePc_pc (w : Word) : (s.writePc w).pc = w := rfl
@[simp] theorem State.writePc_stack (w : Word) : (s.writePc w).stack = s.stack := rfl
@[simp] theorem State.writePc_sp (w : Word) : (s.writePc w).sp = s.sp := rfl
@[simp] theorem State.writePc_dt (w : Word) : (s.writePc w).dt = s.dt := rfl
@[simp] theorem State.writePc_dtLast (w : Word) : (s.writePc w).dtLast = s.dtLast := rfl
@[simp] theorem State.writePc_mem (w : Word) : (s.writePc w).mem = s.mem := rfl
@[simp] theorem State.writePc_disp (w : Word) : (s.writePc w).disp = s.disp := rfl
@[simp] theorem State.writePc_status (w : Word) : (s.writePc w).status = s.status := rfl
@[simp] theorem State.writePc_now (w : Word) : (s.writePc w).now = s.now := rfl
@[simp] theorem State.writePc_key (w : Word) : (s.writePc w).key = s.key := rfl
@[simp] theorem State.writePc_rand (w : Word) : (s.writePc w).rand = s.rand := rfl
@[simp] theorem State.writePc_hostInputs (w : Word) : (s.writePc w).hostInputs = s.hostInputs := rfl
@[simp] theorem State.writePc_freeDraws (w : Word) : (s.writePc w).freeDraws = s.freeDraws := rfl
@[simp] theorem State.writePc_started (w : Word) : (s.writePc w).started = s.started := rfl
@[simp] theorem State.writePc_diags (w : Word) : (s.writePc w).diags = s.diags := rfl
@[simp] theorem State.readV_writePc (w : Word) (y : Reg) : (s.writePc w).readV y = s.readV y := rfl

/-! ### writeDT -/

@[simp] theorem State.writeDT_v (b : Byte) : (s.writeDT b).v = s.v := rfl
@[simp] theorem State.writeDT_i (b : Byte) : (s.writeDT b).i = s.i := rfl
@[simp] theorem State.writeDT_pc (b : Byte) : (s.writeDT b).pc = s.pc := rfl
@[simp] theorem State.writeDT_stack (b : Byte) : (s.writeDT b).stack = s.stack := rfl
@[simp] theorem State.writeDT_sp (b : Byte) : (s.writeDT b).sp = s.sp := rfl
@[simp] theorem State.writeDT_dt (b : Byte) : (s.writeDT b).dt = b := rfl
@[simp] theorem State.writeDT_dtLast (b : Byte) : (s.writeDT b).dtLast = s.dtLast := rfl
@[simp] theorem State.writeDT_mem (b : Byte) : (s.writeDT b).mem = s.mem := rfl
@[simp] theorem State.writeDT_disp (b : Byte) : (s.writeDT b).disp = s.disp := rfl
@[simp] theorem State.writeDT_status (b : Byte) : (s.writeDT b).status = s.status := rfl
@[simp] theorem State.writeDT_now (b : Byte) : (s.writeDT b).now = s.now := rfl
@[simp] theorem State.writeDT_key (b : Byte) : (s.writeDT b).key = s.key := rfl
@[simp] theorem State.writeDT_rand (b : Byte) : (s.writeDT b).rand = s.rand := rfl
@[simp] theorem State.writeDT_hostInputs (b : Byte) : (s.writeDT b).hostInputs = s.hostInputs := rfl
@[simp] theorem State.writeDT_freeDraws (b : Byte) : (s.writeDT b).freeDraws = s.freeDraws := rfl
@[simp] theorem State.writeDT_started (b : Byte) : (s.writeDT b).started = s.started := rfl
@[simp] theorem State.writeDT_diags (b : Byte) : (s.writeDT b).diags = s.diags := rfl
@[simp] theorem State.readV_writeDT (b : Byte) (y : Reg) : (s.writeDT b).readV y = s.readV y := rfl

/-! ### writeTimer -/

@[simp] theorem State.writeTimer_v (b : Byte) (n : Nat) : (s.writeTimer b n).v = s.v := rfl
@[simp] theorem State.writeTimer_i (b : Byte) (n : Nat) : (s.writeTimer b n).i = s.i := rfl
@[simp] theorem State.writeTimer_pc (b : Byte) (n : Nat) : (s.writeTimer b n).pc = s.pc := rfl
@[simp] theorem State.writeTimer_stack (b : Byte) (n : Nat) : (s.writeTimer b n).stack = s.stack := rfl
@[simp] theorem State.writeTimer_sp (b : Byte) (n : Nat) : (s.writeTimer b n).sp = s.sp := rfl
@[simp] theorem State.writeTimer_dt (b : Byte) (n : Nat) : (s.writeTimer b n).dt = b := rfl
@[simp] theorem State.writeTimer_dtLast (b : Byte) (n : Nat) : (s.writeTimer b n).dtLast = n := rfl
@[simp] theorem State.writeTimer_mem (b : Byte) (n : Nat) : (s.writeTimer b n).mem = s.mem := rfl
@[simp] theorem State.writeTimer_disp (b : Byte) (n : Nat) : (s.writeTimer b n).disp = s.disp := rfl
@[simp] theorem State.writeTimer_status (b : Byte) (n : Nat) : (s.writeTimer b n).status = s.status := rfl
@[simp] theorem State.writeTimer_now (b : Byte) (n : Nat) : (s.writeTimer b n).now = s.now := rfl
@[simp] theorem State.writeTimer_key (b : Byte) (n : Nat) : (s.writeTimer b n).key = s.key := rfl
@[simp] theorem State.writeTimer_rand (b : Byte) (n : Nat) : (s.writeTimer b n).rand = s.rand := rfl
@[simp] theorem State.writeTimer_hostInputs (b : Byte) (n : Nat) : (s.writeTimer b n).hostInputs = s.hostInputs := rfl
@[simp] theorem State.writeTimer_freeDraws (b : Byte) (n : Nat) : (s.writeTimer b n).freeDraws = s.freeDraws := rfl
@[simp] theorem State.writeTimer_started (b : Byte) (n : Nat) : (s.writeTimer b n).started = s.started := rfl
@[simp] theorem State.writeTimer_diags (b : Byte) (n : Nat) : (s.writeTimer b n).diags = s.diags := rfl
@[simp] theorem State.readV_writeTimer (b : Byte) (n : Nat) (y : Reg) : (s.writeTimer b n).readV y = s.readV y := rfl

/-! ### writeMem -/

@[simp] theorem State.writeMem_v (m : Memory) : (s.writeMem m).v = s.v := rfl
@[simp] theorem State.writeMem_i (m : Memory) : (s.writeMem m).i = s.i := rfl
@[simp] theorem State.writeMem_pc (m : Memory) : (s.writeMem m).pc = s.pc := rfl
@[simp] theorem State.writeMem_stack (m : Memory) : (s.writeMem m).stack = s.stack := rfl
@[simp] theorem State.writeMem_sp (m : Memory) : (s.writeMem m).sp = s.sp := rfl
@[simp] theorem State.writeMem_dt (m : Memory) : (s.writeMem m).dt = s.dt := rfl
@[simp] theorem State.writeMem_dtLast (m : Memory) : (s.writeMem m).dtLast = s.dtLast := rfl
@[simp] theorem State.writeMem_mem (m : Memory) : (s.writeMem m).mem = m := rfl
@[simp] theorem State.writeMem_disp (m : Memory) : (s.writeMem m).disp = s.disp := rfl
@[simp] theorem State.writeMem_status (m : Memory) : (s.writeMem m).status = s.status := rfl
@[simp] theorem State.writeMem_now (m : Memory) : (s.writeMem m).now = s.now := rfl
@[simp] theorem State.writeMem_key (m : Memory) : (s.writeMem m).key = s.key := rfl
@[simp] theorem State.writeMem_rand (m : Memory) : (s.writeMem m).rand = s.rand := rfl
@[simp] theorem State.writeMem_hostInputs (m : Memory) : (s.writeMem m).hostInputs = s.hostInputs := rfl
@[simp] theorem State.writeMem_freeDraws (m : Memory) : (s.writeMem m).freeDraws = s.freeDraws := rfl
@[simp] theorem State.writeMem_started (m : Memory) : (s.writeMem m).started = s.started := rfl
@[simp] theorem State.writeMem_diags (m : Memory) : (s.writeMem m).diags = s.diags := rfl
@[simp] theorem State.readV_writeMem (m : Memory) (y : Reg) : (s.writeMem m).readV y = s.readV y := rfl

/-! ### writeDisp -/

@[simp] theorem State.writeDisp_v (d : Display) : (s.writeDisp d).v = s.v := rfl
@[simp] theorem State.writeDisp_i (d : Display) : (s.writeDisp d).i = s.i := rfl
@[simp] theorem State.writeDisp_pc (d : Display) : (s.writeDisp d).pc = s.pc := rfl
@[simp] theorem State.writeDisp_stack (d : Display) : (s.writeDisp d).stack = s.stack := rfl
@[simp] theorem State.writeDisp_sp (d : Display) : (s.writeDisp d).sp = s.sp := rfl
@[simp] theorem State.writeDisp_dt (d : Display) : (s.writeDisp d).dt = s.dt := rfl
@[simp] theorem State.writeDisp_dtLast (d : Display) : (s.writeDisp d).dtLast = s.dtLast := rfl
@[simp] theorem State.writeDisp_mem (d : Display) : (s.writeDisp d).mem = s.mem := rfl
@[simp] theorem State.writeDisp_disp (d : Display) : (s.writeDisp d).disp = d := rfl
@[simp] theorem State.writeDisp_status (d : Display) : (s.writeDisp d).status = s.status := rfl
@[simp] theorem State.writeDisp_now (d : Display) : (s.writeDisp d).now = s.now := rfl
@[simp] theorem State.writeDisp_key (d : Display) : (s.writeDisp d).key = s.key := rfl
@[simp] theorem State.writeDisp_rand (d : Display) : (s.writeDisp d).rand = s.rand := rfl
@[simp] theorem State.writeDisp_hostInputs (d : Display) : (s.writeDisp d).hostInputs = s.hostInputs := rfl
@[simp] theorem State.writeDisp_freeDraws (d : Display) : (s.writeDisp d).freeDraws = s.freeDraws := rfl
@[simp] theorem State.writeDisp_started (d : Display) : (s.writeDisp d).started = s.started := rfl
@[simp] theorem State.writeDisp_diags (d : Display) : (s.writeDisp d).diags = s.diags := rfl
@[simp] theorem State.readV_writeDisp (d : Display) (y : Reg) : (s.writeDisp d).readV y = s.readV y := rfl

/-! ### writeStack -/

@[simp] theorem State.writeStack_v (es : List Word) (n : Nat) : (s.writeStack es n).v = s.v := rfl
@[simp] theorem State.writeStack_i (es : List Word) (n : Nat) : (s.writeStack es n).i = s.i := rfl
@[simp] theorem State.writeStack_pc (es : List Word) (n : Nat) : (s.writeStack es n).pc = s.pc := rfl
@[simp] theorem State.writeStack_stack (es : List Word) (n : Nat) : (s.writeStack es n).stack = es := rfl
@[simp] theorem State.writeStack_sp (es : List Word) (n : Nat) : (s.writeStack es n).sp = n := rfl
@[simp] theorem State.writeStack_dt (es : List Word) (n : Nat) : (s.writeStack es n).dt = s.dt := rfl
@[simp] theorem State.writeStack_dtLast (es : List Word) (n : Nat) : (s.writeStack es n).dtLast = s.dtLast := rfl
@[simp] theorem State.writeStack_mem (es : List Word) (n : Nat) : (s.writeStack es n).mem = s.mem := rfl
@[simp] theorem State.writeStack_disp (es : List Word) (n : Nat) : (s.writeStack es n).disp = s.disp := rfl
@[simp] theorem State.writeStack_status (es : List Word) (n : Nat) : (s.writeStack es n).status = s.status := rfl
@[simp] theorem State.writeStack_now (es : List Word) (n : Nat) : (s.writeStack es n).now = s.now := rfl
@[simp] theorem State.writeStack_key (es : List Word) (n : Nat) : (s.writeStack es n).key = s.key := rfl
@[simp] theorem State.writeStack_rand (es : List Word) (n : Nat) : (s.writeStack es n).rand = s.rand := rfl
@[simp] theorem State.writeStack_hostInputs (es : List Word) (n : Nat) : (s.writeStack es n).hostInputs = s.hostInputs := rfl
@[simp] theorem State.writeStack_freeDraws (es : List Word) (n : Nat) : (s.writeStack es n).freeDraws = s.freeDraws := rfl
@[simp] theorem State.writeStack_started (es : List Word) (n : Nat) : (s.writeStack es n).started = s.started := rfl
@[simp] theorem State.writeStack_diags (es : List Word) (n : Nat) : (s.writeStack es n).diags = s.diags := rfl
@[simp] theorem State.readV_writeStack (es : List Word) (n : Nat) (y : Reg) : (s.writeStack es n).readV y = s.readV y := rfl

/-! ### writeStatus -/

@[simp] theorem State.writeStatus_v (st : Status) : (s.writeStatus st).v = s.v := rfl
@[simp] theorem State.writeStatus_i (st : Status) : (s.writeStatus st).i = s.i := rfl
@[simp] theorem State.writeStatus_pc (st : Status) : (s.writeStatus st).pc = s.pc := rfl
@[simp] theorem State.writeStatus_stack (st : Status) : (s.writeStatus st).stack = s.stack := rfl
@[simp] theorem State.writeStatus_sp (st : Status) : (s.writeStatus st).sp = s.sp := rfl
@[simp] theorem State.writeStatus_dt (st : Status) : (s.writeStatus st).dt = s.dt := rfl
@[simp] theorem State.writeStatus_dtLast (st : Status) : (s.writeStatus st).dtLast = s.dtLast := rfl
@[simp] theorem State.writeStatus_mem (st : Status) : (s.writeStatus st).mem = s.mem := rfl
@[simp] theorem State.writeStatus_disp (st : Status) : (s.writeStatus st).disp = s.disp := rfl
@[simp] theorem State.writeStatus_status (st : Status) : (s.writeStatus st).status = st := rfl
@[simp] theorem State.writeStatus_now (st : Status) : (s.writeStatus st).now = s.now := rfl
@[simp] theorem State.writeStatus_key (st : Status) : (s.writeStatus st).key = s.key := rfl
@[simp] theorem State.writeStatus_rand (st : Status) : (s.writeStatus st).rand = s.rand := rfl
@[simp] theorem State.writeStatus_hostInputs (st : Status) : (s.writeStatus st).hostInputs = s.hostInputs := rfl
@[simp] theorem State.writeStatus_freeDraws (st : Status) : (s.writeStatus st).freeDraws = s.freeDraws := rfl
@[simp] theorem State.writeStatus_started (st : Status) : (s.writeStatus st).started = s.started := rfl
@[simp] theorem State.writeStatus_diags (st : Status) : (s.writeStatus st).diags = s.diags := rfl
@[simp] theorem State.readV_writeStatus (st : Status) (y : Reg) : (s.writeStatus st).readV y = s.readV y := rfl

/-! ### raise -/

@[simp] theorem State.raise_v (r : HaltReason) : (s.raise r).v = s.v := rfl
@[simp] theorem State.raise_i (r : HaltReason) : (s.raise r).i = s.i := rfl
@[simp] theorem State.raise_pc (r : HaltReason) : (s.raise r).pc = s.pc := rfl
@[simp] theorem State.raise_stack (r : HaltReason) : (s.raise r).stack = s.stack := rfl
@[simp] theorem State.raise_sp (r : HaltReason) : (s.raise r).sp = s.sp := rfl
@[simp] theorem State.raise_dt (r : HaltReason) : (s.raise r).dt = s.dt := rfl
@[simp] theorem State.raise_dtLast (r : HaltReason) : (s.raise r).dtLast = s.dtLast := rfl
@[simp] theorem State.raise_mem (r : HaltReason) : (s.raise r).mem = s.mem := rfl
@[simp] theorem State.raise_disp (r : HaltReason) : (s.raise r).disp = s.disp := rfl
@[simp] theorem State.raise_status (r : HaltReason) : (s.raise r).status = .halt r := rfl
@[simp] theorem State.raise_now (r : HaltReason) : (s.raise r).now = s.now := rfl
@[simp] theorem State.raise_key (r : HaltReason) : (s.raise r).key = s.key := rfl
@[simp] theorem State.raise_rand (r : HaltReason) : (s.raise r).rand = s.rand := rfl
@[simp] theorem State.raise_hostInputs (r : HaltReason) : (s.raise r).hostInputs = s.hostInputs := rfl
@[simp] theorem State.raise_freeDraws (r : HaltReason) : (s.raise r).freeDraws = s.freeDraws := rfl
@[simp] theorem State.raise_started (r : HaltReason) : (s.raise r).started = s.started := rfl
@[simp] theorem State.raise_diags (r : HaltReason) : (s.raise r).diags = s.diags := rfl
@[simp] theorem State.readV_raise (r : HaltReason) (y : Reg) : (s.raise r).readV y = s.readV y := rfl

/-! ### emitDiag -/

@[simp] theorem State.emitDiag_v (d : Diag) : (s.emitDiag d).v = s.v := rfl
@[simp] theorem State.emitDiag_i (d : Diag) : (s.emitDiag d).i = s.i := rfl
@[simp] theorem State.emitDiag_pc (d : Diag) : (s.emitDiag d).pc = s.pc := rfl
@[simp] theorem State.emitDiag_stack (d : Diag) : (s.emitDiag d).stack = s.stack := rfl
@[simp] theorem State.emitDiag_sp (d : Diag) : (s.emitDiag d).sp = s.sp := rfl
@[simp] theorem State.emitDiag_dt (d : Diag) : (s.emitDiag d).dt = s.dt := rfl
@[simp] theorem State.emitDiag_dtLast (d : Diag) : (s.emitDiag d).dtLast = s.dtLast := rfl
@[simp] theorem State.emitDiag_mem (d : Diag) : (s.emitDiag d).mem = s.mem := rfl
@[simp] theorem State.emitDiag_disp (d : Diag) : (s.emitDiag d).disp = s.disp := rfl
@[simp] theorem State.emitDiag_status (d : Diag) : (s.emitDiag d).status = s.status := rfl
@[simp] theorem State.emitDiag_now (d : Diag) : (s.emitDiag d).now = s.now := rfl
@[simp] theorem State.emitDiag_key (d : Diag) : (s.emitDiag d).key = s.key := rfl
@[simp] theorem State.emitDiag_rand (d : Diag) : (s.emitDiag d).rand = s.rand := rfl
@[simp] theorem State.emitDiag_hostInputs (d : Diag) : (s.emitDiag d).hostInputs = s.hostInputs := rfl
@[simp] theorem State.emitDiag_freeDraws (d : Diag) : (s.emitDiag d).freeDraws = s.freeDraws := rfl
@[simp] theorem State.emitDiag_started (d : Diag) : (s.emitDiag d).started = s.started := rfl
@[simp] theorem State.emitDiag_diags (d : Diag) : (s.emitDiag d).diags = d :: s.diags := rfl
@[simp] theorem State.readV_emitDiag (d : Diag) (y : Reg) : (s.emitDiag d).readV y = s.readV y := rfl

/-! ### setPorts -/

@[simp] theorem State.setPorts_v (inp : HostInput) : (s.setPorts inp).v = s.v := rfl
@[simp] theorem State.setPorts_i (inp : HostInput) : (s.setPorts inp).i = s.i := rfl
@[simp] theorem State.setPorts_pc (inp : HostInput) : (s.setPorts inp).pc = s.pc := rfl
@[simp] theorem State.setPorts_stack (inp : HostInput) : (s.setPorts inp).stack = s.stack := rfl
@[simp] theorem State.setPorts_sp (inp : HostInput) : (s.setPorts inp).sp = s.sp := rfl
@[simp] theorem State.setPorts_dt (inp : HostInput) : (s.setPorts inp).dt = s.dt := rfl
@[simp] theorem State.setPorts_dtLast (inp : HostInput) : (s.setPorts inp).dtLast = s.dtLast := rfl
@[simp] theorem State.setPorts_mem (inp : HostInput) : (s.setPorts inp).mem = s.mem := rfl
@[simp] theorem State.setPorts_disp (inp : HostInput) : (s.setPorts inp).disp = s.disp := rfl
@[simp] theorem State.setPorts_status (inp : HostInput) : (s.setPorts inp).status = s.status := rfl
@[simp] theorem State.setPorts_now (inp : HostInput) : (s.setPorts inp).now = inp.now := rfl
@[simp] theorem State.setPorts_key (inp : HostInput) : (s.setPorts inp).key = inp.key := rfl
@[simp] theorem State.setPorts_rand (inp : HostInput) : (s.setPorts inp).rand = inp.rand := rfl
@[simp] theorem State.setPorts_hostInputs (inp : HostInput) : (s.setPorts inp).hostInputs = s.hostInputs := rfl
@[simp] theorem State.setPorts_freeDraws (inp : HostInput) : (s.setPorts inp).freeDraws = s.freeDraws := rfl
@[simp] theorem State.setPorts_started (inp : HostInput) : (s.setPorts inp).started = s.started := rfl
@[simp] theorem State.setPorts_diags (inp : HostInput) : (s.setPorts inp).diags = s.diags := rfl
@[simp] theorem State.readV_setPorts (inp : HostInput) (y : Reg) : (s.setPorts inp).readV y = s.readV y := rfl

/-! ### loadV -/

@[simp] theorem State.loadV_v (bs : List Byte) : (s.loadV bs).v = writeRegsFrom s.v 0 bs := rfl
@[simp] theorem State.loadV_i (bs : List Byte) : (s.loadV bs).i = s.i := rfl
@[simp] theorem State.loadV_pc (bs : List Byte) : (s.loadV bs).pc = s.pc := rfl
@[simp] theorem State.loadV_stack (bs : List Byte) : (s.loadV bs).stack = s.stack := rfl
@[simp] theorem State.loadV_sp (bs : List Byte) : (s.loadV bs).sp = s.sp := rfl
@[simp] theorem State.loadV_dt (bs : List Byte) : (s.loadV bs).dt = s.dt := rfl
@[simp] theorem State.loadV_dtLast (bs : List Byte) : (s.loadV bs).dtLast = s.dtLast := rfl
@[simp] theorem State.loadV_mem (bs : List Byte) : (s.loadV bs).mem = s.mem := rfl
@[simp] theorem State.loadV_disp (bs : List Byte) : (s.loadV bs).disp = s.disp := rfl
@[simp] theorem State.loadV_status (bs : List Byte) : (s.loadV bs).status = s.status := rfl
@[simp] theorem State.loadV_now (bs : List Byte) : (s.loadV bs).now = s.now := rfl
@[simp] theorem State.loadV_key (bs : List Byte) : (s.loadV bs).key = s.key := rfl
@[simp] theorem State.loadV_rand (bs : List Byte) : (s.loadV bs).rand = s.rand := rfl
@[simp] theorem State.loadV_hostInputs (bs : List Byte) : (s.loadV bs).hostInputs = s.hostInputs := rfl
@[simp] theorem State.loadV_freeDraws (bs : List Byte) : (s.loadV bs).freeDraws = s.freeDraws := rfl
@[simp] theorem State.loadV_started (bs : List Byte) : (s.loadV bs).started = s.started := rfl
@[simp] theorem State.loadV_diags (bs : List Byte) : (s.loadV bs).diags = s.diags := rfl

end

end Sys2Proof.Machine
end

