-- ==== Sys2Proof/Laws/Display.lean ====
section
/-! SUPPORT. Laws of the display's cells (R33): a cell after a write, after a clear (R170), and outside the grid. -/

namespace Sys2Proof.Machine

theorem Display.cell_setCell (d : Display) (r c r' c' : Nat) (b : Bool) :
    (d.setCell r c b).cell r' c' = if r' = r ∧ c' = c ∧ r < 32 ∧ c < 64 then b else d.cell r' c' := by
  by_cases hr : r < 32
  · simp only [Display.setCell, dif_pos hr, Display.cell]
    by_cases h' : r' < 32 ∧ c' < 64
    · obtain ⟨hr', hc'⟩ := h'
      simp only [hr', hc', and_self, dite_true]
      by_cases e : r = r'
      · subst e
        by_cases f : c = c'
        · subst f; simp [hc', hr]
        · have f' : ¬ c' = c := fun g => f g.symm
          simp [f, f', Vector.getElem_setIfInBounds_ne]
      · have e' : ¬ r' = r := fun g => e g.symm
        simp [e, e']
    · have : ¬ (r' = r ∧ c' = c ∧ r < 32 ∧ c < 64) := by rintro ⟨rfl, rfl, h⟩; exact h' h
      simp [h', this]
  · simp [Display.setCell, hr]

@[simp] theorem Display.cell_clear (r c : Nat) : Display.clear.cell r c = false := by
  unfold Display.cell Display.clear
  split <;> simp

theorem Display.cell_out (d : Display) (r c : Nat) (h : ¬ (r < 32 ∧ c < 64)) : d.cell r c = false := by
  simp [Display.cell, h]

/-- Two buffers are the same when all their cells are. -/
theorem Display.ext_cell (d e : Display) (h : ∀ r c, d.cell r c = e.cell r c) : d = e := by
  apply Vector.ext
  intro r hr
  apply Vector.ext
  intro c hc
  have := h r c
  simpa [Display.cell, hr, hc] using this

@[simp] theorem rowBits_length (row : Byte) : (rowBits row).length = 8 := by simp [rowBits]

/-- R172: bit `b` of a row, counted from the most significant, is bit `7 - b` of the byte. -/
theorem rowBits_getD (row : Byte) (b : Nat) (h : b < 8) : (rowBits row).getD b false = row.getLsbD (7 - b) := by
  simp [rowBits, List.getD_eq_getElem?_getD, h]

end Sys2Proof.Machine
end

