-- ==== Sys2Proof/Laws/Memory.lean ====
section
/-! SUPPORT. Laws of the memory (R50, R52, R61): a read after a write, for one byte and for a row of bytes, and that
every operation keeps the canonical form. -/

namespace Sys2Proof.Machine

theorem Memory.read_of_forall_ne (m : Memory) (a : Nat) (h : ∀ c ∈ m, c.1 ≠ a) : Memory.read m a = 0 := by
  induction m with
  | nil => rfl
  | cons c m ih =>
    have hc : a ≠ c.1 := fun e => h c (by simp) e.symm
    rw [Memory.read, if_neg hc, ih (fun d hd => h d (by simp [hd]))]

theorem Memory.read_filter_same (m : Memory) (a : Nat) : Memory.read (m.filter (fun c => c.1 != a)) a = 0 :=
  Memory.read_of_forall_ne _ _ (fun c hc => by simpa using (List.mem_filter.mp hc).2)

theorem Memory.read_filter_other (m : Memory) {a b : Nat} (h : b ≠ a) :
    Memory.read (m.filter (fun c => c.1 != a)) b = Memory.read m b := by
  induction m with
  | nil => rfl
  | cons c m ih =>
    by_cases hc : c.1 = a
    · have hb : b ≠ c.1 := fun e => h (e.trans hc)
      simp [hc, Memory.read, if_neg h, ih]
    · simp [hc, Memory.read, ih]

theorem Memory.read_insertCell_same (m : Memory) (a : Nat) (v : Byte) (h : ∀ c ∈ m, c.1 ≠ a) :
    Memory.read (Memory.insertCell (a, v) m) a = v := by
  induction m with
  | nil => simp [Memory.insertCell, Memory.read]
  | cons c m ih =>
    have hc : a ≠ c.1 := fun e => h c (by simp) e.symm
    by_cases hlt : a < c.1
    · simp [Memory.insertCell, hlt, Memory.read]
    · simp [Memory.insertCell, hlt, Memory.read, hc, ih (fun d hd => h d (by simp [hd]))]

theorem Memory.read_insertCell_other (m : Memory) {a b : Nat} (v : Byte) (h : b ≠ a) :
    Memory.read (Memory.insertCell (a, v) m) b = Memory.read m b := by
  induction m with
  | nil => simp [Memory.insertCell, Memory.read, h]
  | cons c m ih =>
    by_cases hlt : a < c.1
    · simp [Memory.insertCell, hlt, Memory.read, h]
    · simp [Memory.insertCell, hlt, Memory.read, ih]

/-- R61: a read gives the byte most recently written there. -/
@[simp] theorem Memory.read_write_same (m : Memory) (a : Nat) (v : Byte) : (m.write a v).read a = v := by
  unfold Memory.write
  by_cases hv : v = 0
  · simp [hv, Memory.read_filter_same]
  · simp only [if_neg hv]
    exact Memory.read_insertCell_same _ _ _ (fun c hc => by simpa using (List.mem_filter.mp hc).2)

/-- A write leaves every other address alone. -/
theorem Memory.read_write_other (m : Memory) {a b : Nat} (v : Byte) (h : b ≠ a) :
    (m.write a v).read b = m.read b := by
  unfold Memory.write
  by_cases hv : v = 0
  · simp [hv, Memory.read_filter_other m h]
  · simp only [if_neg hv]
    rw [Memory.read_insertCell_other _ _ h, Memory.read_filter_other m h]

/-- A row of bytes leaves every address before it alone. -/
theorem Memory.read_writeList_before (bs : List Byte) (m : Memory) {a b : Nat} (h : b < a) :
    (m.writeList a bs).read b = m.read b := by
  induction bs generalizing m a with
  | nil => rfl
  | cons v bs ih => rw [Memory.writeList, ih _ (by omega), Memory.read_write_other m v (by omega)]

/-- A row of bytes leaves every address after it alone. -/
theorem Memory.read_writeList_after (bs : List Byte) (m : Memory) {a b : Nat} (h : a + bs.length ≤ b) :
    (m.writeList a bs).read b = m.read b := by
  induction bs generalizing m a with
  | nil => rfl
  | cons v bs ih =>
    simp only [List.length_cons] at h
    rw [Memory.writeList, ih _ (by omega), Memory.read_write_other m v (by omega)]

/-- A row of bytes is read back byte by byte. -/
theorem Memory.read_writeList_in (bs : List Byte) (m : Memory) (a k : Nat) (h : k < bs.length) :
    (m.writeList a bs).read (a + k) = bs[k] := by
  induction bs generalizing m a k with
  | nil => simp at h
  | cons v bs ih =>
    cases k with
    | zero => rw [Memory.writeList, Memory.read_writeList_before bs _ (by omega)]; simp
    | succ k =>
      rw [Memory.writeList, show a + (k + 1) = a + 1 + k by omega, ih _ _ _ (by simpa using h)]
      rfl

/-- What every address reads as after a row of bytes was written. -/
theorem Memory.read_writeList (bs : List Byte) (m : Memory) (a b : Nat) :
    (m.writeList a bs).read b = if a ≤ b then bs.getD (b - a) (m.read b) else m.read b := by
  split
  · next h =>
    by_cases hb : b - a < bs.length
    · have := Memory.read_writeList_in bs m a (b - a) hb
      rw [show a + (b - a) = b by omega] at this
      simp [this, hb]
    · rw [Memory.read_writeList_after bs m (by omega), List.getD_eq_default _ _ (by omega)]
  · exact Memory.read_writeList_before bs m (by omega)

@[simp] theorem Memory.readList_length (m : Memory) (a n : Nat) : (m.readList a n).length = n := by
  induction n generalizing a with
  | zero => rfl
  | succ n ih => simp [Memory.readList, ih]

theorem Memory.readList_getElem (m : Memory) (a n k : Nat) (h : k < (m.readList a n).length) :
    (m.readList a n)[k] = m.read (a + k) := by
  induction n generalizing a k with
  | zero => simp at h
  | succ n ih =>
    cases k with
    | zero => rfl
    | succ k =>
      simp only [Memory.readList, List.getElem_cons_succ]
      rw [ih, show a + 1 + k = a + (k + 1) by omega]

theorem Memory.readList_getD (m : Memory) (a n k : Nat) (d : Byte) :
    (m.readList a n).getD k d = if k < n then m.read (a + k) else d := by
  split
  · next h =>
    rw [List.getD_eq_getElem _ _ (by simpa using h), Memory.readList_getElem]
  · next h => exact List.getD_eq_default _ _ (by simpa using h)

/-! ### The canonical form -/

theorem Memory.mem_insertCell (c d : Host.Cell) (m : Memory) : d ∈ Memory.insertCell c m ↔ d = c ∨ d ∈ m := by
  induction m with
  | nil => simp [Memory.insertCell]
  | cons e m ih =>
    by_cases h : c.1 < e.1
    · simp [Memory.insertCell, h]
    · simp [Memory.insertCell, h, ih]; tauto

theorem Memory.insertCell_sorted (c : Host.Cell) (m : Memory) (hm : m.Pairwise (fun c d => c.1 < d.1))
    (hne : ∀ d ∈ m, d.1 ≠ c.1) : (Memory.insertCell c m).Pairwise (fun c d => c.1 < d.1) := by
  induction m with
  | nil => simp [Memory.insertCell]
  | cons e m ih =>
    obtain ⟨he, hm'⟩ := List.pairwise_cons.mp hm
    by_cases h : c.1 < e.1
    · rw [Memory.insertCell, if_pos h]
      refine List.pairwise_cons.mpr ⟨fun d hd => ?_, hm⟩
      rcases List.mem_cons.mp hd with rfl | hd
      · exact h
      · exact lt_trans h (he d hd)
    · rw [Memory.insertCell, if_neg h]
      refine List.pairwise_cons.mpr ⟨fun d hd => ?_, ih hm' (fun d hd => hne d (by simp [hd]))⟩
      rcases (Memory.mem_insertCell c d m).mp hd with rfl | hd
      · have := hne e (by simp)
        omega
      · exact he d hd

/-- Every write of a byte to an address of the machine keeps the canonical form. -/
theorem Memory.write_wf (m : Memory) (a : Nat) (v : Byte) (hm : m.wf) (ha : a < Config.memSize) :
    (m.write a v).wf := by
  have hs : (m.filter (fun c => c.1 != a)).Pairwise (fun c d => c.1 < d.1) := hm.1.filter _
  have hc : ∀ c ∈ m.filter (fun c => c.1 != a), c.2 ≠ 0 ∧ c.1 < Config.memSize :=
    fun c h => hm.2 c (List.mem_filter.mp h).1
  unfold Memory.write
  by_cases hv : v = 0
  · simp only [if_pos hv]; exact ⟨hs, hc⟩
  · simp only [if_neg hv]
    refine ⟨Memory.insertCell_sorted _ _ hs (fun c h => by simpa using (List.mem_filter.mp h).2), fun c h => ?_⟩
    rcases (Memory.mem_insertCell _ c _).mp h with rfl | h
    · exact ⟨hv, ha⟩
    · exact hc c h

/-- Every row of bytes that ends within the memory keeps the canonical form. -/
theorem Memory.writeList_wf (bs : List Byte) (m : Memory) (a : Nat) (hm : m.wf)
    (ha : a + bs.length ≤ Config.memSize) : (m.writeList a bs).wf := by
  induction bs generalizing m a with
  | nil => exact hm
  | cons v bs ih =>
    simp only [List.length_cons] at ha
    exact ih _ _ (Memory.write_wf m a v hm (by omega)) (by omega)

end Sys2Proof.Machine
end

