-- ==== Sys2Proof/Laws/Registers.lean ====
section
/-! SUPPORT. Laws of the register file: a read after a write (R20, R21), the order of a result and its flag (R141), and
a row of registers read or written from V0 (R164, R165). -/

namespace Sys2Proof.Machine

@[simp] theorem State.readV_writeV_same (s : State) (x : Reg) (b : Byte) : (s.writeV x b).readV x = b := by
  simp [State.readV]

theorem State.readV_writeV_ne (s : State) {x y : Reg} (b : Byte) (h : y ≠ x) :
    (s.writeV x b).readV y = s.readV y := by
  have hv : x.val ≠ y.val := fun e => h (Fin.ext e.symm)
  simp [State.readV, hv]

theorem State.readV_writeV (s : State) (x y : Reg) (b : Byte) :
    (s.writeV x b).readV y = if y = x then b else s.readV y := by
  split
  · next h => subst h; simp
  · next h => exact s.readV_writeV_ne b h

/-- R141: VF ends holding the flag, whatever X is. -/
@[simp] theorem State.readV_writeFlagged_F (s : State) (x : Reg) (f : Flagged) :
    (s.writeFlagged x f).readV regF = f.flag := by
  simp [State.writeFlagged]

theorem State.readV_writeFlagged_dest (s : State) {x : Reg} (f : Flagged) (h : x ≠ regF) :
    (s.writeFlagged x f).readV x = f.result := by
  simp [State.writeFlagged, State.readV_writeV_ne _ _ h]

theorem State.readV_writeFlagged_other (s : State) {x y : Reg} (f : Flagged) (hx : y ≠ x) (hF : y ≠ regF) :
    (s.writeFlagged x f).readV y = s.readV y := by
  simp [State.writeFlagged, State.readV_writeV_ne _ _ hx, State.readV_writeV_ne _ _ hF]

/-- A flag-setting operation changes nothing but registers. -/
theorem State.writeFlagged_frame (s : State) (x : Reg) (f : Flagged) :
    { s.writeFlagged x f with v := s.v } = s := rfl

theorem writeRegsFrom_getElem (bs : List Byte) (v : Vector Byte 16) (k j : Nat) (hj : j < 16) :
    (writeRegsFrom v k bs)[j] = if k ≤ j then bs.getD (j - k) v[j] else v[j] := by
  induction bs generalizing v k with
  | nil => simp [writeRegsFrom]
  | cons b bs ih =>
    rw [writeRegsFrom, ih]
    by_cases h1 : k + 1 ≤ j
    · have hne : k ≠ j := by omega
      have hs : j - k = (j - (k + 1)) + 1 := by omega
      rw [if_pos h1, if_pos (by omega : k ≤ j), hs, List.getD_cons_succ, Vector.getElem_setIfInBounds_ne hj hne]
    · rw [if_neg h1]
      by_cases h2 : k = j
      · subst h2; simp
      · rw [if_neg (by omega), Vector.getElem_setIfInBounds_ne hj h2]

/-- R165: register `y` after V0 and the registers after it took the bytes. -/
theorem State.readV_loadV (s : State) (bs : List Byte) (y : Reg) :
    (s.loadV bs).readV y = bs.getD y.val (s.readV y) := by
  simp [State.readV, writeRegsFrom_getElem]

@[simp] theorem State.firstRegs_length (s : State) (x : Reg) : (s.firstRegs x).length = x.val + 1 := by
  simp [State.firstRegs]

/-- R164: byte `k` of V[0..X] is V[k]. -/
theorem State.firstRegs_getD (s : State) (x y : Reg) (h : y ≤ x) (d : Byte) :
    (s.firstRegs x).getD y.val d = s.readV y := by
  have hy : y.val < x.val + 1 := Nat.lt_succ_of_le h
  simp [State.firstRegs, State.readV, List.getD_eq_getElem?_getD, hy]

end Sys2Proof.Machine
end

