-- ==== Sys2Proof/Laws/Stack.lean ====
section
/-! SUPPORT. Laws of the call stack (R26 to R28): an entry after a push, and how long the list of written entries is. -/

namespace Sys2Proof.Machine

theorem setEntry_getD (base : Nat) (es : List Word) (k j : Nat) (w : Word) :
    (setEntry base es k w).getD j (Config.stackInit (base + j)) =
      if j = k then w else es.getD j (Config.stackInit (base + j)) := by
  induction k generalizing base es j with
  | zero => cases es <;> cases j <;> simp [setEntry]
  | succ k ih =>
    cases es with
    | nil =>
      cases j with
      | zero => simp [setEntry]
      | succ j =>
        have := ih (base + 1) [] j
        rw [show base + 1 + j = base + (j + 1) by omega] at this
        simpa [setEntry] using this
    | cons e es =>
      cases j with
      | zero => simp [setEntry]
      | succ j =>
        have := ih (base + 1) es j
        rw [show base + 1 + j = base + (j + 1) by omega] at this
        simpa [setEntry] using this

/-- R27: after `stack[k] <- w`, entry `k` is `w` and every other entry is as before. -/
theorem State.stackEntry_writeStack_setEntry (s : State) (k n j : Nat) (w : Word) :
    (s.writeStack (setEntry 0 s.stack k w) n).stackEntry j = if j = k then w else s.stackEntry j := by
  have := setEntry_getD 0 s.stack k j w
  simpa [State.stackEntry] using this

theorem setEntry_length (base : Nat) (es : List Word) (k : Nat) (w : Word) :
    (setEntry base es k w).length = max es.length (k + 1) := by
  induction k generalizing base es with
  | zero => cases es <;> simp [setEntry]
  | succ k ih => cases es <;> simp [setEntry, ih]

theorem mem_setEntry (base : Nat) (es : List Word) (k : Nat) (w e : Word) (hk : k ≤ es.length)
    (h : e ∈ setEntry base es k w) : e = w ∨ e ∈ es := by
  induction k generalizing base es with
  | zero => cases es <;> simp [setEntry] at h <;> tauto
  | succ k ih =>
    cases es with
    | nil => simp at hk
    | cons d es =>
      simp only [setEntry, List.mem_cons] at h
      rcases h with rfl | h
      · simp
      · rcases ih (base + 1) es (by simpa using hk) h with h | h <;> simp [h]

theorem State.stackEntry_mem (s : State) (k : Nat) (h : k < s.stack.length) : s.stackEntry k ∈ s.stack := by
  rw [State.stackEntry, List.getD_eq_getElem _ _ h]
  exact List.getElem_mem h

end Sys2Proof.Machine
end

