-- ==== Sys2Proof/Laws/Ops.lean ====
section
/-! SUPPORT. One lemma for each shared operation that says everything it can do; later proofs cite it instead of
unfolding the operation. -/

namespace Sys2Proof.Machine

/-! ### Bytes and words -/

theorem wrap8_toNat (n : Nat) : (wrap8 n).toNat = n % 256 := by simp [wrap8]

theorem wrap16_toNat (n : Nat) : (wrap16 n).toNat = n % 65536 := by simp [wrap16]

@[simp] theorem zext16_toNat (b : Byte) : (zext16 b).toNat = b.toNat := by
  simp [zext16]; omega

@[simp] theorem addrOperand_toNat (nnn : Addr12) : (addrOperand nnn).toNat = nnn.toNat := by
  simp [addrOperand]; omega

@[simp] theorem keyByte_toNat (k : HexKey) : (keyByte k).toNat = k.val := by
  simp [keyByte, wrap8_toNat]; omega

/-! ### Range-checked accesses (R52, R54) -/

/-- R54: an access of at least one byte is in range exactly when its last address is below 4096. -/
theorem rangeOk_succ (a n : Nat) : rangeOk a (n + 1) = true ↔ a + n < 4096 := by
  simp only [rangeOk, Bool.or_eq_true, beq_iff_eq, decide_eq_true_eq]
  unfold Config.memSize
  omega

theorem State.writeBytes_cases (s : State) (a : Nat) (bs : List Byte) :
    (rangeOk a bs.length = true ∧ s.writeBytes a bs = s.writeMem (s.mem.writeList a bs)) ∨
    (rangeOk a bs.length = false ∧ s.writeBytes a bs = s.raise .memoryRange) := by
  unfold State.writeBytes
  cases rangeOk a bs.length <;> simp

theorem State.readBytes_cases (s : State) (a n : Nat) :
    (rangeOk a n = true ∧ s.readBytes a n = .ok (s.mem.readList a n)) ∨
    (rangeOk a n = false ∧ s.readBytes a n = .error .memoryRange) := by
  unfold State.readBytes
  cases rangeOk a n <;> simp

/-- R54: a store keeps the canonical form of the memory, whether it faults or not. -/
theorem State.writeBytes_wf (s : State) (a : Nat) (bs : List Byte) (h : s.mem.wf) : (s.writeBytes a bs).mem.wf := by
  rcases s.writeBytes_cases a bs with ⟨hr, e⟩ | ⟨-, e⟩ <;> rw [e]
  · cases bs with
    | nil => exact h
    | cons b bs =>
      rw [List.length_cons, rangeOk_succ] at hr
      exact Memory.writeList_wf _ _ _ h (by simp [Config.memSize]; omega)
  · exact h

/-- R53: the fetched bytes are the two at pc and pc + 1. -/
theorem State.fetchBytes_eq (s : State) (a : Word) :
    s.fetchBytes a = [s.mem.read a.toNat, s.mem.read (a.toNat + 1)] := rfl

/-! ### Stack, skip, address register -/

theorem State.pushAndJump_cases (s : State) (depth : Nat) (w target : Word) :
    (s.sp = depth ∧ s.pushAndJump depth w target = s.raise .stackOverflow) ∨
    (s.sp ≠ depth ∧ s.pushAndJump depth w target =
      (s.writeStack (setEntry 0 s.stack s.sp w) (s.sp + 1)).writePc target) := by
  unfold State.pushAndJump
  split <;> simp_all

theorem State.popToPc_cases (s : State) :
    (s.sp = 0 ∧ s.popToPc = s.raise .stackUnderflow) ∨
    (s.sp ≠ 0 ∧ s.popToPc = (s.writeStack s.stack (s.sp - 1)).writePc (s.stackEntry (s.sp - 1))) := by
  unfold State.popToPc
  split <;> simp_all

/-- R130: a skip changes at most pc, and adds 2 exactly when its condition holds. -/
theorem State.skipIf_eq (s : State) (c : Bool) : s.skipIf c = s.writePc (if c then s.pc + 2 else s.pc) := by
  cases c <;> rfl

theorem State.addToI_cases (s : State) (ov : Config.IOverflow) (b : Byte) :
    (∃ w, s.addToI ov b = s.writeI w) ∨
    (ov = .fault ∧ 0xFFFF < s.i.toNat + b.toNat ∧ s.addToI ov b = s.raise .indexOverflow) := by
  unfold State.addToI
  split
  · exact .inl ⟨_, rfl⟩
  · cases ov
    · exact .inl ⟨_, rfl⟩
    · exact .inr ⟨rfl, by omega, rfl⟩

/-! ### Timer and key wait -/

/-- R212, R213: a tick either changes nothing or decrements DT by one and takes `now` as DT_LAST. -/
theorem State.timerTick_cases (s : State) (hz : Nat) :
    s.timerTick hz = s ∨
    (s.dt ≠ 0 ∧ hz ≤ (s.now - s.dtLast) * 60 ∧ s.timerTick hz = s.writeTimer (wrap8 (s.dt.toNat - 1)) s.now) := by
  unfold State.timerTick
  split
  · next h => exact .inr ⟨h.1, h.2, rfl⟩
  · exact .inl rfl

theorem State.beginWait_cases (s : State) (x : Reg) :
    (∃ k, s.key = some k ∧ s.beginWait x = s.writeV x (keyByte k)) ∨
    (s.key = none ∧ s.beginWait x = s.writeStatus (.wait x)) := by
  unfold State.beginWait State.sampleKey
  cases s.key <;> simp

theorem State.poll_cases (s : State) (x : Reg) :
    (∃ k, s.key = some k ∧ s.poll x = (s.writeV x (keyByte k)).writeStatus .run) ∨
    (s.key = none ∧ s.poll x = s) := by
  unfold State.poll State.sampleKey
  cases s.key <;> simp

/-! ### Loading -/

/-- R233, D22: all a load can do. -/
theorem State.load_cases (s : State) (offset : Nat) (bytes : List Byte) :
    (s.started = true ∧ s.load offset bytes = .refused .loadAfterFirstStep) ∨
    (s.started = false ∧ loadFits offset bytes = true ∧
      s.load offset bytes = .next (s.writeMem (s.mem.writeList offset bytes))) ∨
    (s.started = false ∧ loadFits offset bytes = false ∧ s.load offset bytes = .fault .loadError) := by
  unfold State.load
  cases s.started <;> cases loadFits offset bytes <;> simp

/-- A load that is accepted keeps the canonical form of the memory. -/
theorem State.load_wf (s t : State) (offset : Nat) (bytes : List Byte) (h : s.mem.wf)
    (ht : s.load offset bytes = .next t) : t.mem.wf := by
  rcases s.load_cases offset bytes with ⟨-, e⟩ | ⟨-, hf, e⟩ | ⟨-, -, e⟩ <;> rw [e] at ht
  · cases ht
  · cases ht
    exact Memory.writeList_wf _ _ _ h (by simpa [loadFits] using hf)
  · cases ht

end Sys2Proof.Machine
end

