-- ==== Sys2Proof/Laws/Step.lean ====
section
/-! SUPPORT. What a step can do, once: the host's part of it, and one inversion lemma for the step (R100, R101). -/

namespace Sys2Proof.Machine

/-- R41: what the host does on its ports touches nothing the engine owns. -/
@[simp] theorem State.endStep_withHostOf (s : State) : s.endStep.withHostOf s = s := by
  unfold State.endStep State.nextInputs
  split <;> rfl

@[simp] theorem State.endStep_started (s : State) : s.endStep.started = true := rfl

section
variable (s : State)

@[simp] theorem State.endStep_v : s.endStep.v = s.v := by unfold State.endStep State.nextInputs; split <;> rfl
@[simp] theorem State.endStep_i : s.endStep.i = s.i := by unfold State.endStep State.nextInputs; split <;> rfl
@[simp] theorem State.endStep_pc : s.endStep.pc = s.pc := by unfold State.endStep State.nextInputs; split <;> rfl
@[simp] theorem State.endStep_stack : s.endStep.stack = s.stack := by
  unfold State.endStep State.nextInputs; split <;> rfl
@[simp] theorem State.endStep_sp : s.endStep.sp = s.sp := by unfold State.endStep State.nextInputs; split <;> rfl
@[simp] theorem State.endStep_dt : s.endStep.dt = s.dt := by unfold State.endStep State.nextInputs; split <;> rfl
@[simp] theorem State.endStep_dtLast : s.endStep.dtLast = s.dtLast := by
  unfold State.endStep State.nextInputs; split <;> rfl
@[simp] theorem State.endStep_mem : s.endStep.mem = s.mem := by unfold State.endStep State.nextInputs; split <;> rfl
@[simp] theorem State.endStep_disp : s.endStep.disp = s.disp := by unfold State.endStep State.nextInputs; split <;> rfl
@[simp] theorem State.endStep_status : s.endStep.status = s.status := by
  unfold State.endStep State.nextInputs; split <;> rfl
@[simp] theorem State.endStep_diags : s.endStep.diags = s.diags := by
  unfold State.endStep State.nextInputs; split <;> rfl

/-! ### The state in which an instruction executes -/

@[simp] theorem State.advance_pc : s.advance.pc = s.pc + 2 := rfl
@[simp] theorem State.ready_pc : s.ready.pc = s.pc + 2 := by
  unfold State.ready State.advance State.timerTick
  split <;> rfl
@[simp] theorem State.ready_v : s.ready.v = s.v := by
  unfold State.ready State.advance State.timerTick; split <;> rfl
@[simp] theorem State.ready_i : s.ready.i = s.i := by
  unfold State.ready State.advance State.timerTick; split <;> rfl
@[simp] theorem State.ready_stack : s.ready.stack = s.stack := by
  unfold State.ready State.advance State.timerTick; split <;> rfl
@[simp] theorem State.ready_sp : s.ready.sp = s.sp := by
  unfold State.ready State.advance State.timerTick; split <;> rfl
@[simp] theorem State.ready_mem : s.ready.mem = s.mem := by
  unfold State.ready State.advance State.timerTick; split <;> rfl
@[simp] theorem State.ready_disp : s.ready.disp = s.disp := by
  unfold State.ready State.advance State.timerTick; split <;> rfl
@[simp] theorem State.ready_status : s.ready.status = s.status := by
  unfold State.ready State.advance State.timerTick; split <;> rfl
@[simp] theorem State.ready_now : s.ready.now = s.now := by
  unfold State.ready State.advance State.timerTick; split <;> rfl
@[simp] theorem State.ready_key : s.ready.key = s.key := by
  unfold State.ready State.advance State.timerTick; split <;> rfl
@[simp] theorem State.ready_hostInputs : s.ready.hostInputs = s.hostInputs := by
  unfold State.ready State.advance State.timerTick; split <;> rfl

/-- A tick leaves the memory alone, so the fetch reads what was there before the cycle (R103). -/
@[simp] theorem State.timerTick_mem (hz : Nat) : (s.timerTick hz).mem = s.mem := by
  unfold State.timerTick; split <;> rfl

end

/-- R102: the guard passes exactly when pc ≤ 0x0FFE. -/
theorem State.guardPasses_iff (s : State) : s.guardPasses = true ↔ s.pc.toNat < 4095 :=
  decide_eq_true_iff

/-- The end of a step answers a next state exactly when the execute phase does. -/
theorem finish_next (o : Host.Outcome State Fault Refusal) (u : State) :
    finish o = .next u ↔ ∃ t, o = .next t ∧ u = t.endStep := by
  cases o <;> simp [finish, eq_comm]

/-- R100, R101: everything a step that answers a next state can do: nothing in HALT, a poll in WAIT, the guard's
Fatal, an instruction, or an unrecognized word. -/
theorem step_cases (s u : State) (h : step s = .next u) :
    (∃ r, s.status = .halt r ∧ u = s) ∨
    (∃ x, s.status = .wait x ∧ u = (s.poll x).endStep) ∨
    (s.status = .run ∧ 4095 ≤ s.pc.toNat ∧ u = (s.raise .pcExhausted).endStep) ∨
    (s.status = .run ∧ s.pc.toNat < 4095 ∧ ∃ i t, decode (s.fetch16 s.pc) = .ok i ∧ exec i s.ready = .next t ∧
      u = t.endStep) ∨
    (s.status = .run ∧ s.pc.toNat < 4095 ∧ (∃ e, decode (s.fetch16 s.pc) = .error e) ∧
      u = (s.ready.emitDiag { word := s.fetch16 s.pc, addr := s.pc }).endStep) := by
  unfold step at h
  split at h
  · next hs =>
    obtain ⟨t, ht, rfl⟩ := (finish_next _ _).mp h
    unfold cycle at ht
    split at ht
    · next hg =>
      have hg' : s.pc.toNat < 4095 := s.guardPasses_iff.mp hg
      unfold decodeAndExecute at ht
      rw [State.fetchBytes_eq, State.timerTick_mem] at ht
      have hf : wordOfBytes (s.mem.read s.pc.toNat) (s.mem.read (s.pc.toNat + 1)) = s.fetch16 s.pc := rfl
      simp only [decodeBytes, hf] at ht
      cases hd : decode (s.fetch16 s.pc) with
      | ok i =>
        rw [hd] at ht
        exact .inr (.inr (.inr (.inl ⟨hs, hg', i, t, rfl, ht, rfl⟩)))
      | error e =>
        rw [hd] at ht
        have hw : (s.timerTick Config.clockHz).fetch16 s.pc = s.fetch16 s.pc := by simp [State.fetch16]
        simp only [execUnrecognized, hw, Host.Outcome.next.injEq] at ht
        exact .inr (.inr (.inr (.inr ⟨hs, hg', ⟨e, rfl⟩, by rw [ht]⟩)))
    · next hg =>
      cases ht
      exact .inr (.inr (.inl ⟨hs, Nat.not_lt.mp (fun h => hg (s.guardPasses_iff.mpr h)), rfl⟩))
  · next x hs =>
    obtain ⟨t, ht, rfl⟩ := (finish_next _ _).mp h
    cases ht
    exact .inr (.inl ⟨x, hs, rfl⟩)
  · next r hs =>
    cases h
    exact .inl ⟨r, hs, rfl⟩

end Sys2Proof.Machine
end

