-- ==== Sys2Proof/Laws/Exec.lean ====
section
/-! SUPPORT. What each meaning answers, said once: an equation for each instruction that has one effect, and an
inversion lemma for each that can go two ways. -/

namespace Sys2Proof.Machine

section
variable (s : State) (x y : Reg) (nn : Byte) (nnn : Addr12)

theorem exec_cls : exec .cls s = .next (s.writeDisp Display.clear) := rfl
theorem exec_jpAddr : exec (.jpAddr nnn) s = .next (s.writePc (addrOperand nnn)) := rfl
theorem exec_jpV0 : exec (.jpV0 nnn) s = .next (s.writePc (addrOperand nnn + zext16 (s.readV 0))) := rfl
theorem exec_seByte :
    exec (.seByte x nn) s = .next (s.writePc (if s.readV x == nn then s.pc + 2 else s.pc)) :=
  congrArg Host.Outcome.next (s.skipIf_eq _)
theorem exec_sneByte :
    exec (.sneByte x nn) s = .next (s.writePc (if s.readV x != nn then s.pc + 2 else s.pc)) :=
  congrArg Host.Outcome.next (s.skipIf_eq _)
theorem exec_seReg :
    exec (.seReg x y) s = .next (s.writePc (if s.readV x == s.readV y then s.pc + 2 else s.pc)) :=
  congrArg Host.Outcome.next (s.skipIf_eq _)
theorem exec_sneReg :
    exec (.sneReg x y) s = .next (s.writePc (if s.readV x != s.readV y then s.pc + 2 else s.pc)) :=
  congrArg Host.Outcome.next (s.skipIf_eq _)
theorem exec_skp : exec (.skp x) s = .next (s.writePc (if s.keyIs x then s.pc + 2 else s.pc)) :=
  congrArg Host.Outcome.next (s.skipIf_eq _)
theorem exec_sknp : exec (.sknp x) s = .next (s.writePc (if !s.keyIs x then s.pc + 2 else s.pc)) :=
  congrArg Host.Outcome.next (s.skipIf_eq _)
theorem exec_ldByte : exec (.ldByte x nn) s = .next (s.writeV x nn) := rfl
theorem exec_addByte : exec (.addByte x nn) s = .next (s.writeV x (wrap8 ((s.readV x).toNat + nn.toNat))) := rfl
theorem exec_ldReg : exec (.ldReg x y) s = .next (s.writeV x (s.readV y)) := rfl
theorem exec_orReg : exec (.orReg x y) s = .next (s.writeV x (s.readV x ||| s.readV y)) := rfl
theorem exec_andReg : exec (.andReg x y) s = .next (s.writeV x (s.readV x &&& s.readV y)) := rfl
theorem exec_xorReg : exec (.xorReg x y) s = .next (s.writeV x (s.readV x ^^^ s.readV y)) := rfl
theorem exec_addReg : exec (.addReg x y) s = .next (s.writeFlagged x (addWithCarry (s.readV x) (s.readV y))) := rfl
theorem exec_subReg : exec (.subReg x y) s = .next (s.writeFlagged x (subWithBorrow (s.readV x) (s.readV y))) := rfl
theorem exec_subnReg : exec (.subnReg x y) s = .next (s.writeFlagged x (subWithBorrow (s.readV y) (s.readV x))) := rfl
theorem exec_shrReg : exec (.shrReg x y) s = .next (s.writeFlagged x (shiftRightOut (s.readV x))) := rfl
theorem exec_shlReg : exec (.shlReg x y) s = .next (s.writeFlagged x (shiftLeftOut (s.readV x))) := rfl
theorem exec_rnd : exec (.rnd x nn) s = .next (s.writeV x (s.rand &&& nn)) := rfl
theorem exec_ldI : exec (.ldI nnn) s = .next (s.writeI (addrOperand nnn)) := rfl
theorem exec_ldF : exec (.ldF x) s = .next (s.writeI (wrap16 ((s.readV x).toNat * 5))) := rfl
theorem exec_ldFromDT : exec (.ldFromDT x) s = .next (s.writeV x s.dt) := rfl
theorem exec_ldDT : exec (.ldDT x) s = .next (s.writeDT (s.readV x)) := rfl
theorem exec_ldST : exec (.ldST x) s = .next s := rfl

theorem exec_callAddr_cases :
    (s.sp = Config.stackDepth ∧ exec (.callAddr nnn) s = .next (s.raise .stackOverflow)) ∨
    (s.sp ≠ Config.stackDepth ∧ exec (.callAddr nnn) s =
      .next ((s.writeStack (setEntry 0 s.stack s.sp s.pc) (s.sp + 1)).writePc (addrOperand nnn))) := by
  rcases s.pushAndJump_cases Config.stackDepth s.pc (addrOperand nnn) with ⟨h, e⟩ | ⟨h, e⟩
  · exact .inl ⟨h, congrArg _ e⟩
  · exact .inr ⟨h, congrArg _ e⟩

theorem exec_ret_cases :
    (s.sp = 0 ∧ exec .ret s = .next (s.raise .stackUnderflow)) ∨
    (s.sp ≠ 0 ∧ exec .ret s =
      .next ((s.writeStack s.stack (s.sp - 1)).writePc (s.stackEntry (s.sp - 1)))) := by
  rcases s.popToPc_cases with ⟨h, e⟩ | ⟨h, e⟩
  · exact .inl ⟨h, congrArg _ e⟩
  · exact .inr ⟨h, congrArg _ e⟩

theorem exec_addI_cases :
    (∃ w, exec (.addI x) s = .next (s.writeI w)) ∨
    (Config.iOverflow = .fault ∧ 0xFFFF < s.i.toNat + (s.readV x).toNat ∧
      exec (.addI x) s = .next (s.raise .indexOverflow)) := by
  rcases s.addToI_cases Config.iOverflow (s.readV x) with ⟨w, e⟩ | ⟨h, h', e⟩
  · exact .inl ⟨w, congrArg _ e⟩
  · exact .inr ⟨h, h', congrArg _ e⟩

theorem exec_waitKey_cases :
    (∃ k, s.key = some k ∧ exec (.waitKey x) s = .next (s.writeV x (keyByte k))) ∨
    (s.key = none ∧ exec (.waitKey x) s = .next (s.writeStatus (.wait x))) := by
  rcases s.beginWait_cases x with ⟨k, h, e⟩ | ⟨h, e⟩
  · exact .inl ⟨k, h, congrArg _ e⟩
  · exact .inr ⟨h, congrArg _ e⟩

/-- R163: FX33 stores at I .. I + 2 when I + 2 is addressable, and raises MemoryRange otherwise. -/
theorem exec_ldB_cases :
    (s.i.toNat + 2 < 4096 ∧
      exec (.ldB x) s = .next (s.writeMem (s.mem.writeList s.i.toNat (decimalDigits (s.readV x))))) ∨
    (4096 ≤ s.i.toNat + 2 ∧ exec (.ldB x) s = .next (s.raise .memoryRange)) := by
  rcases s.writeBytes_cases (s.indexed 0) (decimalDigits (s.readV x)) with ⟨h, e⟩ | ⟨h, e⟩
  · exact .inl ⟨(rangeOk_succ s.i.toNat 2).mp h, congrArg _ e⟩
  · exact .inr ⟨Nat.not_lt.mp ((not_congr (rangeOk_succ s.i.toNat 2)).mp (Bool.not_eq_true _ ▸ h)), congrArg _ e⟩

/-- R164: FX55 stores at I .. I + X when I + X is addressable, and raises MemoryRange otherwise. -/
theorem exec_storeRegs_cases :
    (s.i.toNat + x.val < 4096 ∧
      exec (.storeRegs x) s = .next (s.writeMem (s.mem.writeList s.i.toNat (s.firstRegs x)))) ∨
    (4096 ≤ s.i.toNat + x.val ∧ exec (.storeRegs x) s = .next (s.raise .memoryRange)) := by
  rcases s.writeBytes_cases (s.indexed 0) (s.firstRegs x) with ⟨h, e⟩ | ⟨h, e⟩ <;>
    rw [State.firstRegs_length] at h
  · exact .inl ⟨(rangeOk_succ s.i.toNat x.val).mp h, congrArg _ e⟩
  · exact .inr ⟨Nat.not_lt.mp ((not_congr (rangeOk_succ s.i.toNat x.val)).mp (Bool.not_eq_true _ ▸ h)), congrArg _ e⟩

/-- R165: FX65 loads from I .. I + X when I + X is addressable, and raises MemoryRange otherwise. -/
theorem exec_loadRegs_cases :
    (s.i.toNat + x.val < 4096 ∧
      exec (.loadRegs x) s = .next (s.loadV (s.mem.readList s.i.toNat (x.val + 1)))) ∨
    (4096 ≤ s.i.toNat + x.val ∧ exec (.loadRegs x) s = .next (s.raise .memoryRange)) := by
  simp only [exec, execLoadRegs]
  rcases s.readBytes_cases (s.indexed 0) (x.val + 1) with ⟨h, e⟩ | ⟨h, e⟩ <;> rw [e]
  · exact .inl ⟨(rangeOk_succ s.i.toNat x.val).mp h, rfl⟩
  · exact .inr ⟨Nat.not_lt.mp ((not_congr (rangeOk_succ s.i.toNat x.val)).mp (Bool.not_eq_true _ ▸ h)), rfl⟩

/-- R171, R175: DXYN draws when N is 0 or I + N - 1 is addressable, and raises MemoryRange otherwise. -/
theorem exec_drw_cases (n : Fin 16) :
    ((n.val = 0 ∨ s.i.toNat + (n.val - 1) < 4096) ∧
      exec (.drw x y n) s = .next
        ((s.writeDisp (blit s.disp (s.readV x) (s.readV y) (s.mem.readList s.i.toNat n.val)).disp).writeV regF
          (b2u (blit s.disp (s.readV x) (s.readV y) (s.mem.readList s.i.toNat n.val)).collided))) ∨
    (n.val ≠ 0 ∧ 4096 ≤ s.i.toNat + (n.val - 1) ∧ exec (.drw x y n) s = .next (s.raise .memoryRange)) := by
  have range : rangeOk s.i.toNat n.val = true ↔ (n.val = 0 ∨ s.i.toNat + (n.val - 1) < 4096) := by
    obtain ⟨n, hn⟩ := n
    cases n with
    | zero => simp [rangeOk]
    | succ n => simpa using rangeOk_succ s.i.toNat n
  simp only [exec, execDrw]
  rcases s.readBytes_cases (s.indexed 0) n.val with ⟨h, e⟩ | ⟨h, e⟩ <;> rw [e]
  · exact .inl ⟨range.mp h, rfl⟩
  · have hn := (not_congr range).mp (Bool.not_eq_true _ ▸ h)
    push Not at hn
    exact .inr ⟨hn.1, hn.2, rfl⟩

end

end Sys2Proof.Machine
end

