-- ==== Sys2Proof/Laws/Fields.lean ====
section
/-! SUPPORT. The fields of an encoded word are the operands it was encoded from (R8, R71), one lemma per format. -/

namespace Sys2Proof

theorem fieldNNN_encodeA (op : BitVec 4) (nnn : Addr12) : fieldNNN (encodeA op nnn) = nnn := by
  unfold fieldNNN encodeA
  ext i hi
  simp only [BitVec.getElem_extractLsb', BitVec.getLsbD_append]
  interval_cases i <;> simp

theorem fieldX_encodeXK (op : BitVec 4) (x : Reg) (nn : Byte) : fieldX (encodeXK op x nn) = x := by
  have h : (encodeXK op x nn).extractLsb' 8 4 = BitVec.ofFin x := by
    unfold encodeXK
    ext i hi
    simp only [BitVec.getElem_extractLsb', BitVec.getLsbD_append]
    interval_cases i <;> simp
  simp [fieldX, h]

theorem fieldNN_encodeXK (op : BitVec 4) (x : Reg) (nn : Byte) : fieldNN (encodeXK op x nn) = nn := by
  unfold fieldNN encodeXK
  ext i hi
  simp only [BitVec.getElem_extractLsb', BitVec.getLsbD_append]
  interval_cases i <;> simp

theorem fieldX_encodeXYN (op : BitVec 4) (x y : Reg) (n : Fin 16) : fieldX (encodeXYN op x y n) = x := by
  have h : (encodeXYN op x y n).extractLsb' 8 4 = BitVec.ofFin x := by
    unfold encodeXYN
    ext i hi
    simp only [BitVec.getElem_extractLsb', BitVec.getLsbD_append]
    interval_cases i <;> simp
  simp [fieldX, h]

theorem fieldY_encodeXYN (op : BitVec 4) (x y : Reg) (n : Fin 16) : fieldY (encodeXYN op x y n) = y := by
  have h : (encodeXYN op x y n).extractLsb' 4 4 = BitVec.ofFin y := by
    unfold encodeXYN
    ext i hi
    simp only [BitVec.getElem_extractLsb', BitVec.getLsbD_append]
    interval_cases i <;> simp
  simp [fieldY, h]

theorem fieldN_encodeXYN (op : BitVec 4) (x y : Reg) (n : Fin 16) : fieldN (encodeXYN op x y n) = n := by
  have h : (encodeXYN op x y n).extractLsb' 0 4 = BitVec.ofFin n := by
    unfold encodeXYN
    ext i hi
    simp only [BitVec.getElem_extractLsb', BitVec.getLsbD_append]
    interval_cases i <;> simp
  simp [fieldN, h]

end Sys2Proof
end

