-- ==== Sys2Proof/Laws/PerInstr.lean ====
section
/-! SUPPORT. A law of every instruction, one lemma per constructor: its encoded word carries the fixed bits of its row
of R76 (`match` under `mask`), and it is well formed. -/

namespace Sys2Proof.Laws.FixedBits

/-- R76: the `mask` and the `match` of an instruction's row. -/
def rowOf : Instr → Word × Word
  | .cls => (0xFFFF, 0x00E0)
  | .ret => (0xFFFF, 0x00EE)
  | .jpAddr _ => (0xF000, 0x1000)
  | .callAddr _ => (0xF000, 0x2000)
  | .seByte _ _ => (0xF000, 0x3000)
  | .sneByte _ _ => (0xF000, 0x4000)
  | .seReg _ _ => (0xF00F, 0x5000)
  | .ldByte _ _ => (0xF000, 0x6000)
  | .addByte _ _ => (0xF000, 0x7000)
  | .ldReg _ _ => (0xF00F, 0x8000)
  | .orReg _ _ => (0xF00F, 0x8001)
  | .andReg _ _ => (0xF00F, 0x8002)
  | .xorReg _ _ => (0xF00F, 0x8003)
  | .addReg _ _ => (0xF00F, 0x8004)
  | .subReg _ _ => (0xF00F, 0x8005)
  | .shrReg _ _ => (0xF00F, 0x8006)
  | .subnReg _ _ => (0xF00F, 0x8007)
  | .shlReg _ _ => (0xF00F, 0x800E)
  | .sneReg _ _ => (0xF00F, 0x9000)
  | .ldI _ => (0xF000, 0xA000)
  | .jpV0 _ => (0xF000, 0xB000)
  | .rnd _ _ => (0xF000, 0xC000)
  | .drw _ _ _ => (0xF000, 0xD000)
  | .skp _ => (0xF0FF, 0xE09E)
  | .sknp _ => (0xF0FF, 0xE0A1)
  | .ldFromDT _ => (0xF0FF, 0xF007)
  | .waitKey _ => (0xF0FF, 0xF00A)
  | .ldDT _ => (0xF0FF, 0xF015)
  | .ldST _ => (0xF0FF, 0xF018)
  | .addI _ => (0xF0FF, 0xF01E)
  | .ldF _ => (0xF0FF, 0xF029)
  | .ldB _ => (0xF0FF, 0xF033)
  | .storeRegs _ => (0xF0FF, 0xF055)
  | .loadRegs _ => (0xF0FF, 0xF065)

/-- The encoded word has its row's fixed bits, and the instruction is well formed. -/
def Statement (i : Instr) : Prop :=
  encode i &&& (rowOf i).1 = (rowOf i).2 ∧ i.wf = true

theorem encodeA_fixed (op : BitVec 4) (nnn : Addr12) : encodeA op nnn &&& 0xF000 = op ++ (0 : Addr12) := by
  ext i hi
  simp only [encodeA, BitVec.getElem_and, BitVec.getElem_append]
  interval_cases i <;> simp

theorem encodeXK_top (op : BitVec 4) (x : Reg) (nn : Byte) : encodeXK op x nn &&& 0xF000 = op ++ (0 : Addr12) := by
  ext i hi
  simp only [encodeXK, BitVec.getElem_and, BitVec.getElem_append]
  interval_cases i <;> simp

theorem encodeXK_function (op : BitVec 4) (x : Reg) (nn : Byte) :
    encodeXK op x nn &&& 0xF0FF = op ++ (0 : BitVec 4) ++ nn := by
  ext i hi
  simp only [encodeXK, BitVec.getElem_and, BitVec.getElem_append]
  interval_cases i <;> simp

theorem encodeXYN_top (op : BitVec 4) (x y : Reg) (n : Fin 16) :
    encodeXYN op x y n &&& 0xF000 = op ++ (0 : Addr12) := by
  ext i hi
  simp only [encodeXYN, BitVec.getElem_and, BitVec.getElem_append]
  interval_cases i <;> simp

theorem encodeXYN_function (op : BitVec 4) (x y : Reg) (n : Fin 16) :
    encodeXYN op x y n &&& 0xF00F = op ++ (0 : BitVec 8) ++ (BitVec.ofFin n : BitVec 4) := by
  ext i hi
  simp only [encodeXYN, BitVec.getElem_and, BitVec.getElem_append]
  interval_cases i <;> simp

theorem cls : Statement .cls := by constructor <;> decide
theorem ret : Statement .ret := by constructor <;> decide
theorem jpAddr (nnn : Addr12) : Statement (.jpAddr nnn) := ⟨encodeA_fixed _ _, rfl⟩
theorem callAddr (nnn : Addr12) : Statement (.callAddr nnn) := ⟨encodeA_fixed _ _, rfl⟩
theorem seByte (x : Reg) (nn : Byte) : Statement (.seByte x nn) := ⟨encodeXK_top _ _ _, rfl⟩
theorem sneByte (x : Reg) (nn : Byte) : Statement (.sneByte x nn) := ⟨encodeXK_top _ _ _, rfl⟩
theorem seReg (x y : Reg) : Statement (.seReg x y) := ⟨encodeXYN_function _ _ _ _, rfl⟩
theorem ldByte (x : Reg) (nn : Byte) : Statement (.ldByte x nn) := ⟨encodeXK_top _ _ _, rfl⟩
theorem addByte (x : Reg) (nn : Byte) : Statement (.addByte x nn) := ⟨encodeXK_top _ _ _, rfl⟩
theorem ldReg (x y : Reg) : Statement (.ldReg x y) := ⟨encodeXYN_function _ _ _ _, rfl⟩
theorem orReg (x y : Reg) : Statement (.orReg x y) := ⟨encodeXYN_function _ _ _ _, rfl⟩
theorem andReg (x y : Reg) : Statement (.andReg x y) := ⟨encodeXYN_function _ _ _ _, rfl⟩
theorem xorReg (x y : Reg) : Statement (.xorReg x y) := ⟨encodeXYN_function _ _ _ _, rfl⟩
theorem addReg (x y : Reg) : Statement (.addReg x y) := ⟨encodeXYN_function _ _ _ _, rfl⟩
theorem subReg (x y : Reg) : Statement (.subReg x y) := ⟨encodeXYN_function _ _ _ _, rfl⟩
theorem shrReg (x y : Reg) : Statement (.shrReg x y) := ⟨encodeXYN_function _ _ _ _, rfl⟩
theorem subnReg (x y : Reg) : Statement (.subnReg x y) := ⟨encodeXYN_function _ _ _ _, rfl⟩
theorem shlReg (x y : Reg) : Statement (.shlReg x y) := ⟨encodeXYN_function _ _ _ _, rfl⟩
theorem sneReg (x y : Reg) : Statement (.sneReg x y) := ⟨encodeXYN_function _ _ _ _, rfl⟩
theorem ldI (nnn : Addr12) : Statement (.ldI nnn) := ⟨encodeA_fixed _ _, rfl⟩
theorem jpV0 (nnn : Addr12) : Statement (.jpV0 nnn) := ⟨encodeA_fixed _ _, rfl⟩
theorem rnd (x : Reg) (nn : Byte) : Statement (.rnd x nn) := ⟨encodeXK_top _ _ _, rfl⟩
theorem drw (x y : Reg) (n : Fin 16) : Statement (.drw x y n) := ⟨encodeXYN_top _ _ _ _, rfl⟩
theorem skp (x : Reg) : Statement (.skp x) := ⟨encodeXK_function _ _ _, rfl⟩
theorem sknp (x : Reg) : Statement (.sknp x) := ⟨encodeXK_function _ _ _, rfl⟩
theorem ldFromDT (x : Reg) : Statement (.ldFromDT x) := ⟨encodeXK_function _ _ _, rfl⟩
theorem waitKey (x : Reg) : Statement (.waitKey x) := ⟨encodeXK_function _ _ _, rfl⟩
theorem ldDT (x : Reg) : Statement (.ldDT x) := ⟨encodeXK_function _ _ _, rfl⟩
theorem ldST (x : Reg) : Statement (.ldST x) := ⟨encodeXK_function _ _ _, rfl⟩
theorem addI (x : Reg) : Statement (.addI x) := ⟨encodeXK_function _ _ _, rfl⟩
theorem ldF (x : Reg) : Statement (.ldF x) := ⟨encodeXK_function _ _ _, rfl⟩
theorem ldB (x : Reg) : Statement (.ldB x) := ⟨encodeXK_function _ _ _, rfl⟩
theorem storeRegs (x : Reg) : Statement (.storeRegs x) := ⟨encodeXK_function _ _ _, rfl⟩
theorem loadRegs (x : Reg) : Statement (.loadRegs x) := ⟨encodeXK_function _ _ _, rfl⟩

end Sys2Proof.Laws.FixedBits
end

