-- ==== Sys2Proof/Tests/Slice0.lean ====
section
/-! SUPPORT. Tests. Expected results come from the spec: the words from the encodings of R76, the step results from
the vectors of 95_test_vectors.md (named in each comment) or by hand from the rule cited. -/

namespace Sys2Proof.Tests

open Sys2Proof.Machine

/-! ## WellFormed: what each check refuses -/

/-- R233: 3585 bytes at 0x200 end beyond the memory. -/
theorem test_rom_of_3585_bytes_refused : romFits (List.replicate 3585 0) = false := by
  unfold romFits loadFits
  rw [List.length_replicate]
  decide

/-- R232: 3584 bytes fit. -/
theorem test_rom_of_3584_bytes_fits : romFits (List.replicate 3584 0) = true := by
  unfold romFits loadFits
  rw [List.length_replicate]
  decide

/-- R233: one byte at 4096 does not fit. -/
theorem test_load_beyond_end_refused : loadFits 4096 [0x12] = false := by decide

/-- R233: a font of 4097 bytes does not fit. -/
theorem test_font_of_4097_bytes_refused : fontFits (List.replicate 4097 0) = false := by
  unfold fontFits loadFits
  rw [List.length_replicate]
  decide

/-! ## Decode: words written out from R71 and R76 -/

theorem test_decode_control :
    [0x00E0, 0x00EE, 0x1234, 0x2300, 0xB300].map decode =
      [.ok .cls, .ok .ret, .ok (.jpAddr 0x234), .ok (.callAddr 0x300), .ok (.jpV0 0x300)] := by decide

theorem test_decode_skips :
    [0x3342, 0x4342, 0x5120, 0x9120, 0xE59E, 0xE5A1].map decode =
      [.ok (.seByte 3 0x42), .ok (.sneByte 3 0x42), .ok (.seReg 1 2), .ok (.sneReg 1 2), .ok (.skp 5),
       .ok (.sknp 5)] := by decide

theorem test_decode_loads_and_logic :
    [0x6A42, 0x7003, 0x8120, 0x8121, 0x8122, 0x8123, 0xC30F].map decode =
      [.ok (.ldByte 10 0x42), .ok (.addByte 0 3), .ok (.ldReg 1 2), .ok (.orReg 1 2), .ok (.andReg 1 2),
       .ok (.xorReg 1 2), .ok (.rnd 3 0x0F)] := by decide

theorem test_decode_flagged :
    [0x8124, 0x8125, 0x8126, 0x8127, 0x812E].map decode =
      [.ok (.addReg 1 2), .ok (.subReg 1 2), .ok (.shrReg 1 2), .ok (.subnReg 1 2), .ok (.shlReg 1 2)] := by decide

theorem test_decode_index_memory :
    [0xA300, 0xF21E, 0xF429, 0xFA33, 0xF155, 0xF265].map decode =
      [.ok (.ldI 0x300), .ok (.addI 2), .ok (.ldF 4), .ok (.ldB 10), .ok (.storeRegs 1), .ok (.loadRegs 2)] := by
  decide

theorem test_decode_display_timer_key :
    [0xD12F, 0xF307, 0xF20A, 0xF515, 0xF318].map decode =
      [.ok (.drw 1 2 15), .ok (.ldFromDT 3), .ok (.waitKey 2), .ok (.ldDT 5), .ok (.ldST 3)] := by decide

/-- R75: one word of each row of the table of unrecognized words (L2-CY-5 to L2-CY-11). -/
theorem test_decode_unrecognized :
    [0x0000, 0x00E1, 0x01E0, 0x5121, 0x8128, 0x800F, 0x9121, 0xE09F, 0xE1A2, 0xF000, 0xF0FF, 0xFFFF].all
      (fun op => decode op == .error (.unrecognized op)) = true := by decide

/-- R70: one byte is no instruction. -/
theorem test_decode_truncated : decodeBytes [0x12] = .error .truncated := by decide

/-- R70: the bytes after an instruction are left. -/
theorem test_decode_rest : decodeBytes [0x12, 0x34, 0x56] = .ok (.jpAddr 0x234, [0x56]) := by decide

theorem test_decodeTableWord : decodeTableWord 16 0xD125 = some (.drw 1 2 5) := by decide

theorem test_encode_words :
    [encode (.jpAddr 0x234), encode (.drw 1 2 5), encode (.shlReg 1 2), encode (.rnd 3 0x0F), encode (.loadRegs 2)] =
      [0x1234, 0xD125, 0x812E, 0xC30F, 0xF265] := by decide

/-! ## One step -/

/-- A machine at creation with some registers and I set. -/
def machineWith (regs : List (Reg × Byte)) (i : Word) : State :=
  regs.foldl (fun s p => s.writeV p.1 p.2) (State.reset.writeI i)

/-- What `f` sees after one step that runs the word `op`. -/
def after {α : Type} (s : State) (op : Nat) (f : State → α) : Option α :=
  match step (s.withFetchWord 16 op) with
  | .next t => some (f t)
  | _ => none

/-- Registers 1 and VF after one step. -/
def v1AndF (t : State) : Byte × Byte := (t.readV 1, t.readV regF)

/-- L2-CF-1. -/
theorem test_jp : after State.reset 0x1234 (·.pc) = some 0x234 := by decide

/-- L2-CF-6. -/
theorem test_call :
    after State.reset 0x2300 (fun t => (t.stackEntry 0, t.sp, t.pc)) = some (0x202, 1, 0x300) := by decide

/-- L2-CF-11. -/
theorem test_ret :
    after (State.reset.writeStack [0x202, 0x302] 2) 0x00EE (fun t => (t.sp, t.pc, t.stackEntry 0)) =
      some (1, 0x302, 0x202) := by decide

/-- L2-CF-10. -/
theorem test_ret_underflow :
    after State.reset 0x00EE (fun t => (t.status, t.pc)) = some (.halt .stackUnderflow, 0x202) := by decide

/-- L2-CF-8, for the operation with STACK_DEPTH = 12. -/
theorem test_push_overflow :
    ((State.reset.writeStack (List.replicate 12 0x202) 12).pushAndJump 12 0x202 0x200).status =
      .halt .stackOverflow := by decide

/-- L2-CF-14: no wrap at 12 bits. -/
theorem test_jpV0_no_wrap : after (machineWith [(0, 0xFF)] 0) 0xBFFF (·.pc) = some 0x10FE := by decide

/-- L2-CF-16: only V0 is added. -/
theorem test_jpV0_adds_V0 : after (machineWith [(0, 0x10), (15, 0x20)] 0) 0xB300 (·.pc) = some 0x310 := by decide

/-- L2-SK-1, L2-SK-2. -/
theorem test_seByte :
    (after (machineWith [(3, 0x42)] 0) 0x3342 (·.pc), after (machineWith [(3, 0x41)] 0) 0x3342 (·.pc)) =
      (some 0x204, some 0x202) := by decide

/-- L2-SK-4, L2-SK-5. -/
theorem test_sneByte :
    (after (machineWith [(3, 0x42)] 0) 0x4342 (·.pc), after (machineWith [(3, 0x00)] 0) 0x4342 (·.pc)) =
      (some 0x202, some 0x204) := by decide

/-- L2-SK-6, L2-SK-7. -/
theorem test_seReg :
    (after (machineWith [(1, 7), (2, 7)] 0) 0x5120 (·.pc), after (machineWith [(1, 7), (2, 8)] 0) 0x5120 (·.pc)) =
      (some 0x204, some 0x202) := by decide

/-- L2-SK-9, L2-SK-10. -/
theorem test_sneReg :
    (after (machineWith [(1, 7), (2, 8)] 0) 0x9120 (·.pc), after (machineWith [(1, 7)] 0) 0x9110 (·.pc)) =
      (some 0x204, some 0x202) := by decide

/-- The machine with V0 = `v` and a key on the input. -/
def keyMachine (v : Byte) (key : Option HexKey) : State :=
  (machineWith [(0, v)] 0).setPorts { now := 0, key := key, rand := 0xA7 }

/-- L2-SK-11, L2-SK-13, L2-SK-15: none is not key 0, and no key is ≥ 16. -/
theorem test_skp :
    (after (keyMachine 5 (some 5)) 0xE09E (·.pc), after (keyMachine 0 none) 0xE09E (·.pc),
     after (keyMachine 0x15 (some 5)) 0xE09E (·.pc)) = (some 0x204, some 0x202, some 0x202) := by decide

/-- L2-SK-16, L2-SK-17, L2-SK-18. -/
theorem test_sknp :
    (after (keyMachine 5 none) 0xE0A1 (·.pc), after (keyMachine 5 (some 5)) 0xE0A1 (·.pc),
     after (keyMachine 0x15 (some 5)) 0xE0A1 (·.pc)) = (some 0x204, some 0x202, some 0x204) := by decide

/-- L2-AL-1. -/
theorem test_ldByte : after State.reset 0x6A42 (·.readV 10) = some 0x42 := by decide

/-- L2-AL-4: wraps, no flag. -/
theorem test_addByte_wraps :
    after (machineWith [(0, 0xFF), (15, 0x55)] 0) 0x7001 (fun t => (t.readV 0, t.readV regF)) = some (0, 0x55) := by
  decide

/-- L2-AL-6. -/
theorem test_ldReg : after (machineWith [(2, 0x11)] 0) 0x8120 (·.readV 1) = some 0x11 := by decide

/-- L2-AL-7. -/
theorem test_orReg : after (machineWith [(1, 0x0F), (2, 0xF0), (15, 0x55)] 0) 0x8121 v1AndF = some (0xFF, 0x55) := by
  decide

/-- L2-AL-8. -/
theorem test_andReg : after (machineWith [(1, 0x3C), (2, 0x0F), (15, 0x55)] 0) 0x8122 v1AndF = some (0x0C, 0x55) := by
  decide

/-- L2-AL-9. -/
theorem test_xorReg : after (machineWith [(1, 0xFF), (2, 0x0F), (15, 0x55)] 0) 0x8123 v1AndF = some (0xF0, 0x55) := by
  decide

/-- L2-AL-12. -/
theorem test_addReg_carry : after (machineWith [(1, 0xFF), (2, 0x01)] 0) 0x8124 v1AndF = some (0, 1) := by decide

/-- L2-AL-16: X = F keeps the carry. -/
theorem test_addReg_F : after (machineWith [(15, 0x80)] 0) 0x8FF4 (·.readV regF) = some 1 := by decide

/-- L2-AL-18: VF is 1 on borrow. -/
theorem test_subReg_borrow : after (machineWith [(1, 5), (2, 6)] 0) 0x8125 v1AndF = some (0xFF, 1) := by decide

/-- L2-AL-19. -/
theorem test_subReg_plain : after (machineWith [(1, 6), (2, 5)] 0) 0x8125 v1AndF = some (1, 0) := by decide

/-- L2-AL-23: V[Y] is not read. -/
theorem test_shrReg : after (machineWith [(1, 0x80), (2, 0x03)] 0) 0x8126 v1AndF = some (0x40, 0) := by decide

/-- L2-AL-25: X = F keeps the bit shifted out. -/
theorem test_shrReg_F : after (machineWith [(15, 0x02)] 0) 0x8F06 (·.readV regF) = some 0 := by decide

/-- L2-AL-26. -/
theorem test_subnReg : after (machineWith [(1, 6), (2, 5)] 0) 0x8127 v1AndF = some (0xFF, 1) := by decide

/-- L2-AL-29. -/
theorem test_shlReg : after (machineWith [(1, 0x81)] 0) 0x810E v1AndF = some (2, 1) := by decide

/-- L2-AL-30: V[Y] is not read. -/
theorem test_shlReg_ignores_Y : after (machineWith [(1, 0x40), (2, 0xFF)] 0) 0x812E v1AndF = some (0x80, 0) := by
  decide

/-- L2-AL-32. -/
theorem test_rnd : after (keyMachine 0 none) 0xC30F (·.readV 3) = some 0x07 := by decide

/-- L2-IM-2. -/
theorem test_ldI : after State.reset 0xAFFF (·.i) = some 0x0FFF := by decide

/-- L2-IM-4. -/
theorem test_addI : after (machineWith [(0, 1)] 0x0FFF) 0xF01E (fun t => (t.i, t.readV regF)) = some (0x1000, 0) := by
  decide

/-- L2-IM-5, L2-IM-6: the operation under each value of I_OVERFLOW. -/
theorem test_addToI_above :
    ((machineWith [] 0xFFFF).addToI .wrap16 1).i = 0 ∧
    ((machineWith [] 0xFFFF).addToI .fault 1).status = .halt .indexOverflow ∧
    ((machineWith [] 0xFFFF).addToI .fault 1).i = 0xFFFF := by decide

/-- L2-IM-12: not masked. -/
theorem test_ldF : after (machineWith [(0, 0xFF)] 0) 0xF029 (·.i) = some 0x04FB := by decide

/-- L2-IM-18: the last three bytes of the memory. -/
theorem test_ldB_at_end :
    after (machineWith [(0, 0x7B)] 0xFFD) 0xF033 (fun t => t.mem.readList 0xFFD 3) = some [1, 2, 3] := by decide

/-- L2-IM-19. -/
theorem test_ldB_out_of_range :
    after (machineWith [(0, 0x7B)] 0xFFE) 0xF033 (fun t => (t.status, t.mem.read 0xFFE)) =
      some (.halt .memoryRange, 0) := by decide

/-- L2-IM-21. -/
theorem test_storeRegs :
    after (machineWith [(0, 0xAA), (1, 0xBB)] 0x400) 0xF055 (fun t => (t.mem.readList 0x400 2, t.i)) =
      some ([0xAA, 0], 0x400) := by decide

/-- L2-IM-24. -/
theorem test_storeRegs_out_of_range :
    after (machineWith [(0, 0x11), (1, 0x22)] 0xFFF) 0xF155 (fun t => (t.status, t.mem.read 0xFFF)) =
      some (.halt .memoryRange, 0) := by decide

/-- L2-IM-25. -/
theorem test_loadRegs :
    after ((machineWith [(3, 0x33)] 0x300).writeMem [(0x300, 1), (0x301, 5), (0x302, 6)]) 0xF265
      (fun t => (t.readV 0, t.readV 1, t.readV 2, t.readV 3, t.i)) = some (1, 5, 6, 0x33, 0x300) := by decide

/-- L2-IM-27. -/
theorem test_loadRegs_out_of_range :
    after (machineWith [(0, 0x11)] 0xFF8) 0xF865 (fun t => (t.status, t.readV 0)) =
      some (.halt .memoryRange, 0x11) := by decide

/-- L2-DS-1. -/
theorem test_cls :
    after (State.reset.writeDisp (State.reset.disp.setCell 31 63 true)) 0x00E0 (·.disp.cell 31 63) = some false := by
  decide

/-- The machine with one row of a sprite at 0x300 and the drawing coordinates in V0 and V1. -/
def spriteMachine (x y : Byte) (row : Byte) (d : Display) : State :=
  ((machineWith [(0, x), (1, y)] 0x300).writeMem [(0x300, row)]).writeDisp d

/-- L2-DS-12: collision at the right edge, bits 2 to 7 clipped. -/
theorem test_drw_clips :
    after (spriteMachine 62 0 0xFF (State.reset.disp.setCell 0 63 true)) 0xD011
      (fun t => (t.disp.cell 0 62, t.disp.cell 0 63, t.disp.cell 0 0, t.readV regF)) =
      some (true, false, false, 1) := by decide

/-- L2-DS-16: the range is checked although the second row would be clipped. -/
theorem test_drw_out_of_range :
    after (machineWith [(0, 0), (1, 31)] 0xFFF) 0xD012 (·.status) = some (.halt .memoryRange) := by decide

/-- L2-TM-6 with the operation of R212 at CLOCK_HZ = 600, then FX07: the tick comes first. -/
theorem test_timer_tick :
    let s := (State.reset.writeTimer 1 0).setPorts { now := 10, key := none, rand := 0 }
    (s.timerTick 600).dt = 0 ∧ (s.timerTick 600).dtLast = 10 ∧ (s.timerTick 601).dt = 1 := by decide

/-- Row 0 of a buffer, its first eight cells. -/
def firstEight (d : Display) : List Bool := (List.range 8).map (d.cell 0)

/-- R176, the source's own instance (L2-DS-2, L2-DS-3): on a cleared buffer the row 0xFF at (0, 0) lights 8 cells with
no collision, and drawn again it darkens them with one. -/
theorem test_source_instance_of_drawing_twice :
    let one := blit Display.clear 0 0 [0xFF]
    let two := blit one.disp 0 0 [0xFF]
    firstEight one.disp = List.replicate 8 true ∧ one.collided = false ∧
    firstEight two.disp = List.replicate 8 false ∧ two.collided = true := by decide

/-- R174, by hand (log entry 22): over 8 lit cells the first draw erases them, and the second turns 0 to 1, which
does not collide. -/
theorem test_drawing_twice_over_lit_cells :
    let lit := (blit Display.clear 0 0 [0xFF]).disp
    let one := blit lit 0 0 [0xFF]
    let two := blit one.disp 0 0 [0xFF]
    one.collided = true ∧ firstEight two.disp = List.replicate 8 true ∧ two.collided = false := by decide

/-- R180, by hand: FX07 copies DT. -/
theorem test_ldFromDT :
    (match exec (.ldFromDT 3) (State.reset.writeDT 0x2A) with | .next t => some (t.readV 3) | _ => none) = some 0x2A := by
  decide

/-- R181: DT takes V5, DT_LAST stays. -/
theorem test_ldDT : after (machineWith [(5, 10)] 0) 0xF515 (fun t => (t.dt, t.dtLast)) = some (10, 0) := by decide

/-- L2-CY-15. -/
theorem test_ldST : after State.reset 0xF318 (fun t => (t.pc, t.dt, t.diags)) = some (0x202, 0, []) := by decide

/-- L2-KW-1 and L2-KW-2. -/
theorem test_waitKey :
    (after (keyMachine 0 (some 3)) 0xF50A (fun t => (t.readV 5, t.status)),
     after (keyMachine 0 none) 0xF50A (fun t => (t.readV 5, t.status))) =
      (some (3, .run), some (0, .wait 5)) := by decide

/-- L2-KW-6: a poll has no guard. -/
theorem test_poll_has_no_guard :
    (match step (((keyMachine 0 (some 1)).writePc 0x0FFF).writeStatus (.wait 2)) with
     | .next t => some (t.readV 2, t.status, t.pc) | _ => none) = some (1, .run, 0x0FFF) := by decide

/-- L2-CY-3: the guard comes before everything else. -/
theorem test_guard :
    (match step (State.reset.writePc 0x0FFF) with
     | .next t => some (t.status, t.pc) | _ => none) = some (.halt .pcExhausted, 0x0FFF) := by decide

/-- L2-CY-8: a diagnostic, and no skip. -/
theorem test_unrecognized :
    after (machineWith [(1, 7), (2, 7)] 0) 0x5121 (fun t => (t.pc, t.diags)) =
      some (0x202, [{ word := 0x5121, addr := 0x200 }]) := by decide

/-- L2-CY-12: an odd pc runs. -/
theorem test_odd_pc : after (State.reset.writePc 0x201) 0x6007 (fun t => (t.readV 0, t.pc)) = some (7, 0x203) := by
  decide

/-- D22: the load port is closed after the first step. -/
theorem test_load_after_start :
    after State.reset 0x6007 (fun t => match t.load 0x200 [0] with | .refused r => some r | _ => none) =
      some (some .loadAfterFirstStep) := by decide

/-- R230 to R232: the font and the program P1 (95_test_vectors.md) in place after the boot. -/
theorem test_boot :
    (match boot Init.zero 0 [0xF0, 0x90] [0x60, 0x05, 0x70, 0x03] with
     | .next t => some (t.mem.readList 0 2, t.fetch16 0x200, t.fetch16 t.pc, t.fetch16 0x202) | _ => none) =
      some ([0xF0, 0x90], 0x6005, 0x6005, 0x7003) := by decide

/-- R58: memory that nothing was loaded into reads 0. -/
theorem test_reset_memory_zero : State.reset.mem.read 0x300 = 0 := by decide

/-! ## Witnesses: a concrete state and operands that meet the hypotheses of each statement, clause by clause -/

/-- What `f` sees after the execute phase of `i`. -/
def execThen {α : Type} (i : Instr) (s : State) (f : State → α) : Option α :=
  match exec i s with
  | .next t => some (f t)
  | _ => none

/-- What `f` sees after one step. -/
def stepThen {α : Type} (s : State) (f : State → α) : Option α :=
  match step s with
  | .next t => some (f t)
  | _ => none

theorem witness_LoadPortWritesExactlyItsBytes :
    (State.reset.writeV 0 0 |>.endStep).started = true ∧
    (State.reset.started = false ∧ 4096 < 4096 + [(0x12 : Byte)].length) ∧
    (State.reset.started = false ∧ 4095 + [(0x12 : Byte)].length ≤ 4096) ∧
    (stepThen State.reset (·.started) = some true ∧ State.reset.status = .run) := by decide

theorem witness_BootPlacesFontAndRom :
    (List.replicate 4096 (0 : Byte)).length ≤ 4096 ∧ (List.replicate 3584 (0 : Byte)).length ≤ 3584 :=
  ⟨Nat.le_of_eq List.length_replicate, Nat.le_of_eq List.length_replicate⟩

theorem witness_DecodeOfEncodeIsTheInstruction : (Instr.drw 15 0 15).wf = true := by decide

theorem witness_EncodeOfDecodeIsTheWord : decode 0x800E = .ok (.shlReg 0 0) := by decide

theorem witness_DecodingIsTotalAndUnambiguous :
    (∃ r ∈ opcodeTable, (0x00EE : Word) &&& r.maskBits = r.matchBits) ∧
    ∀ r ∈ opcodeTable, (0x00EF : Word) &&& r.maskBits ≠ r.matchBits :=
  ⟨⟨⟨0x00EE, 0xFFFF, fun _ => .ret⟩, by simp [opcodeTable, opcodeRowsA], by decide⟩, by decide⟩

theorem witness_RegisterSkipsCompareRegisters :
    ((0x5121 : Word).toNat / 4096 = 5 ∧ fieldN 0x5121 ≠ 0) ∧ ((0x9FFF : Word).toNat / 4096 = 9 ∧ fieldN 0x9FFF ≠ 0) := by
  decide

theorem witness_ClearTurnsEveryCellOff :
    (0x01E0 : Word).toNat / 4096 = 0 ∧ fieldNN 0x01E0 = 0xE0 ∧ fieldX 0x01E0 ≠ 0 := by decide

/-- The last pc that passes the guard, with a jump under it. -/
def lastJump : State := (State.reset.writePc 0x0FFE).withFetchWord 16 0x1234

theorem witness_StepRunsTheDecodedInstruction :
    lastJump.status = .run ∧ lastJump.pc.toNat < 4095 ∧ (Instr.jpAddr 0x234).wf = true ∧
    decodeBytes [lastJump.mem.read lastJump.pc.toNat, lastJump.mem.read (lastJump.pc.toNat + 1)] =
      .ok (.jpAddr 0x234, []) := by decide

/-- The same with a tick that is due, whatever CLOCK_HZ is. -/
theorem witness_StepRunsTheDecodedInstruction_tick_due :
    let s := (lastJump.writeTimer 1 0).setPorts { now := Config.clockHz, key := none, rand := 0 }
    s.status = .run ∧ s.pc.toNat < 4095 ∧ s.dt ≠ 0 ∧ Config.clockHz ≤ (s.now - s.dtLast) * 60 :=
  ⟨by decide, by decide, by decide, by simp; omega⟩

theorem witness_UnrecognizedWordEmitsADiagnostic :
    State.reset.status = .run ∧ State.reset.pc.toNat < 4095 ∧
    decode (State.reset.fetch16 State.reset.pc) = .error (.unrecognized (State.reset.fetch16 State.reset.pc)) := by
  decide

theorem witness_GuardRaisesPcExhausted :
    ((State.reset.writePc 0x0FFF).status = .run ∧ 0x0FFF ≤ (State.reset.writePc 0x0FFF).pc.toNat) ∧
    (lastJump.status = .run ∧ lastJump.pc.toNat ≤ 0x0FFE ∧ stepThen lastJump (·.pc) = some 0x234) := by decide

theorem witness_HaltedMachineStaysAsItIs : (State.reset.raise .memoryRange).Halted := ⟨.memoryRange, rfl⟩

theorem witness_FatalsArePreciseAndHaveOneCause :
    State.reset.status = .run ∧
    execThen .ret State.reset (·.status) = some (.halt .stackUnderflow) ∧
    execThen (.ldB 0) (machineWith [] 0xFFE) (·.status) = some (.halt .memoryRange) ∧
    execThen (.storeRegs 1) (machineWith [] 0xFFF) (·.status) = some (.halt .memoryRange) ∧
    execThen (.loadRegs 1) (machineWith [] 0xFFF) (·.status) = some (.halt .memoryRange) ∧
    execThen (.drw 0 0 2) (machineWith [] 0xFFF) (·.status) = some (.halt .memoryRange) := by decide

/-- The machine with its stack full, whatever STACK_DEPTH is. -/
def fullStack : State := State.reset.writeStack (List.replicate Config.stackDepth 0x202) Config.stackDepth

theorem witness_FatalsArePreciseAndHaveOneCause_overflow :
    exec (.callAddr 0x200) fullStack = .next (fullStack.raise .stackOverflow) := by
  rcases exec_callAddr_cases fullStack 0x200 with ⟨_, e⟩ | ⟨h, _⟩
  · exact e
  · exact absurd rfl h

theorem witness_ParkedMachineStaysParked :
    (State.reset.withFetchWord 16 0x1200).Parked 0x200 ∧
    ((State.reset.writePc 0x0FFE).withFetchWord 16 0x1FFE).Parked 0xFFE :=
  ⟨⟨by decide, by decide, by decide, by decide⟩, ⟨by decide, by decide, by decide, by decide⟩⟩

theorem witness_EveryStepKeepsTheInvariant :
    lastJump.Inv ∧ stepThen lastJump (·.pc) = some 0x234 :=
  ⟨⟨by decide, by decide, Nat.zero_le _, (by intro e h; cases h), by decide⟩, by decide⟩

theorem witness_EveryBootedRunKeepsTheInvariant :
    ∃ s t, boot Init.zero 0 [0xF0] [0x12, 0x00] = .next s ∧ Reaches s t ∧ t.started = true := by
  let s := State.reset.writeMem [(0, 0xF0), (0x200, 0x12)]
  have h : ∃ t, step s = .next t := by
    cases e : step s with
    | next t => exact ⟨t, rfl⟩
    | fault f => have : stepThen s (·.pc) = some 0x200 := by decide
                 simp [stepThen, e] at this
    | refused r => have : stepThen s (·.pc) = some 0x200 := by decide
                   simp [stepThen, e] at this
  obtain ⟨t, ht⟩ := h
  refine ⟨s, t, rfl, .next .refl ht, ?_⟩
  have : stepThen s (·.started) = some true := by decide
  simpa [stepThen, ht] using this

theorem witness_EveryStepKeepsTheClockInOrder :
    ({ State.reset with hostInputs := [{ now := 3, key := none, rand := 0 }] }).ClockOk ∧
    stepThen { State.reset with hostInputs := [{ now := 3, key := none, rand := 0 }] } (·.now) = some 3 :=
  ⟨⟨by decide, by simp [clockRises, State.reset, State.create]⟩, by decide⟩

theorem witness_TimerFallsByAtMostOnePerInterval :
    (stepThen lastJump (·.dt) = some 0) ∧ ∀ x, decode (lastJump.fetch16 lastJump.pc) ≠ .ok (.ldDT x) := by decide

theorem witness_TimerTickDecrementsWhenDue :
    (let s := (State.reset.writeTimer 1 0).setPorts { now := 10, key := none, rand := 0 }
     s.dt ≠ 0 ∧ 600 ≤ (s.now - s.dtLast) * 60) ∧
    (let s := (State.reset.writeTimer 1 0).setPorts { now := 10, key := none, rand := 0 }
     (s.now - s.dtLast) * 60 < 601) ∧
    State.reset.dt = 0 := by decide

theorem witness_CallPushesThePcAndJumps :
    State.reset.sp ≠ Config.stackDepth ∧ fullStack.sp = Config.stackDepth :=
  ⟨by decide, rfl⟩

theorem witness_ReturnPopsThePc : (State.reset.writeStack [0x202] 1).sp ≠ 0 ∧ State.reset.sp = 0 := by decide

theorem witness_ReturnComesBackAfterTheCall :
    ∃ t, State.reset.sp ≠ Config.stackDepth ∧ exec (.callAddr 0x300) State.reset = .next t ∧
      t.stack = t.stack ∧ t.sp = t.sp := by
  rcases exec_callAddr_cases State.reset 0x300 with ⟨h, _⟩ | ⟨h, e⟩
  · exact absurd h (by decide)
  · exact ⟨_, h, e, rfl, rfl⟩

theorem witness_KeySkipsCompareWithTheKey :
    (keyMachine 15 (some 15)).key.map Fin.val = some ((keyMachine 15 (some 15)).readV 0).toNat ∧
    (keyMachine 0 (some 15)).key.map Fin.val ≠ some ((keyMachine 0 (some 15)).readV 0).toNat ∧
    (keyMachine 0 none).key = none ∧ 16 ≤ ((keyMachine 16 (some 0)).readV 0).toNat := by decide

theorem witness_AddSetsTheCarry : (1 : Reg) ≠ 15 := by decide

theorem witness_SubtractionsSetTheBorrow : (14 : Reg) ≠ 15 := by decide

theorem witness_ShiftsSetTheBitShiftedOut : (0 : Reg) ≠ 15 := by decide

theorem witness_FlagIdentitiesHold :
    (1 : Reg) ≠ 15 ∧
    execThen (.addReg 1 2) (machineWith [(1, 0xFF), (2, 1)] 0) v1AndF = some (0, 1) ∧
    execThen (.subReg 1 2) (machineWith [(1, 0), (2, 0xFF)] 0) v1AndF = some (1, 1) ∧
    execThen (.subnReg 1 2) (machineWith [(1, 6), (2, 5)] 0) v1AndF = some (0xFF, 1) ∧
    execThen (.shrReg 1 2) (machineWith [(1, 1)] 0) v1AndF = some (0, 1) ∧
    execThen (.shlReg 1 2) (machineWith [(1, 0x80)] 0) v1AndF = some (0, 1) := by decide

theorem witness_AddToIndexFollowsTheOverflowParameter :
    (machineWith [(0, 0)] 0xFFFF).i.toNat + ((machineWith [(0, 0)] 0xFFFF).readV 0).toNat ≤ 0xFFFF ∧
    0xFFFF < (machineWith [(0, 1)] 0xFFFF).i.toNat + ((machineWith [(0, 1)] 0xFFFF).readV 0).toNat := by
  decide

theorem witness_DecimalDigitsAreStored :
    (machineWith [] 0xFFD).i.toNat + 2 < 4096 ∧ 4096 ≤ (machineWith [] 0xFFE).i.toNat + 2 := by decide

theorem witness_RegistersAreStored :
    (machineWith [] 0xFF0).i.toNat + (15 : Reg).val < 4096 ∧
    4096 ≤ (machineWith [] 0xFF1).i.toNat + (15 : Reg).val := by decide

theorem witness_RegistersAreLoaded :
    (machineWith [] 0xFFF).i.toNat + (0 : Reg).val < 4096 ∧
    4096 ≤ (machineWith [] 0x1000).i.toNat + (0 : Reg).val := by decide

theorem witness_StoreThenLoadRestoresRegisters :
    ∃ t u : State, (machineWith [(0, 0x11)] 0xFFE).i.toNat + (1 : Reg).val < 4096 ∧
      exec (.storeRegs 1) (machineWith [(0, 0x11)] 0xFFE) = .next t ∧ u.i = t.i ∧ u.readV 0 ≠ t.readV 0 ∧
      (∀ a, 0xFFE ≤ a → a ≤ 0xFFE + 1 → u.mem.read a = t.mem.read a) := by
  rcases exec_storeRegs_cases (machineWith [(0, 0x11)] 0xFFE) 1 with ⟨h, e⟩ | ⟨h, _⟩
  · obtain ⟨t, e, r⟩ : ∃ t, exec (.storeRegs 1) (machineWith [(0, 0x11)] 0xFFE) = .next t ∧ t.readV 0 = 0x11 :=
      ⟨_, e, by rw [State.readV_writeMem]; decide⟩
    exact ⟨t, t.writeV 0 0x12, h, e, rfl, by rw [State.readV_writeV_same, r]; decide, fun _ _ _ => rfl⟩
  · exact absurd h (by decide)

theorem witness_StoredBytesAreFetched :
    1 ≤ (1 : Reg).val ∧ (machineWith [] 0xFFE).i.toNat + (1 : Reg).val < 4096 := by decide

theorem witness_DrawXorsTheSpriteIntoTheDisplay :
    (0 : Fin 16).val = 0 ∧ (machineWith [] 0xFFF).i.toNat + ((1 : Fin 16).val - 1) < 4096 ∧
    ((1 : Fin 16).val ≠ 0 ∧ 4096 ≤ (machineWith [] 0x1000).i.toNat + ((1 : Fin 16).val - 1)) := by decide

theorem witness_BlitOutsideTheGridDrawsNothing : 64 ≤ (64 : Byte).toNat ∧ 32 ≤ (32 : Byte).toNat := by decide

theorem witness_KeyWaitTakesTheFirstKey :
    (keyMachine 0 (some 15)).key = some 15 ∧ (keyMachine 0 none).key = none ∧
    (((keyMachine 0 (some 0)).writeStatus (.wait 2)).status = .wait 2 ∧
      ((keyMachine 0 (some 0)).writeStatus (.wait 2)).key = some 0) ∧
    (((keyMachine 0 none).writeStatus (.wait 2)).status = .wait 2 ∧
      ((keyMachine 0 none).writeStatus (.wait 2)).key = none) := by decide

theorem witness_OnlyFlagInstructionsOrDestinationsChangeVF :
    execThen (.addReg 1 2) (machineWith [(1, 0xFF), (2, 1)] 0) (·.readV 15) = some 1 ∧
    (machineWith [(1, 0xFF), (2, 1)] 0).readV 15 ≠ 1 := by decide

theorem witness_OnlyThreeInstructionsChangeI :
    execThen (.ldI 0xFFF) State.reset (·.i) = some 0xFFF ∧ State.reset.i ≠ 0xFFF := by decide

theorem witness_OnlyControlTransfersChangeThePc :
    execThen (.seByte 0 0) State.reset (·.pc) = some 0x202 ∧ State.reset.pc ≠ 0x202 := by decide

theorem witness_OnlyCallAndReturnTouchTheStack :
    execThen .ret (State.reset.writeStack [0x202] 1) (·.sp) = some 0 := by decide

theorem witness_OnlyClearAndDrawChangeTheDisplay :
    execThen .cls (State.reset.writeDisp (Display.clear.setCell 0 0 true)) (·.disp.cell 0 0) = some false ∧
    (State.reset.writeDisp (Display.clear.setCell 0 0 true)).disp.cell 0 0 = true := by decide

theorem witness_OnlyTwoInstructionsChangeMemory :
    execThen (.ldB 0) (machineWith [(0, 100)] 0xFFD) (·.mem.read 0xFFD) = some 1 ∧
    (machineWith [(0, 100)] 0xFFD).mem.read 0xFFD ≠ 1 := by decide

theorem witness_NoInstructionTouchesTheHostOrTheTimestamp :
    execThen (.ldDT 0) (machineWith [(0, 9)] 0) (·.dt) = some 9 := by decide

theorem witness_PortsAreReadOnlyByTheirInstructions :
    (execThen .cls State.reset (·.pc) = some 0x200 ∧ ∀ x nn, Instr.cls ≠ .rnd x nn) ∧
    (∀ x, Instr.cls ≠ .skp x ∧ Instr.cls ≠ .sknp x ∧ Instr.cls ≠ .waitKey x) :=
  ⟨⟨by decide, fun _ _ h => by cases h⟩, fun _ => ⟨(by intro h; cases h), (by intro h; cases h), (by intro h; cases h)⟩⟩

end Sys2Proof.Tests
end

section
/-! SUPPORT. What the machine holds at creation (R39). The fields are copies of INIT and t0; memory, the registers and
the stack are read through the model's accessors, and an address or entry that is not listed reads as its creation
value. -/

namespace Sys2Proof.Machine

@[simp] theorem Memory.read_nil (a : Nat) : Memory.read [] a = 0 := rfl

/-- R39: with no entry written, every stack entry is at its open value. -/
theorem State.stackEntry_of_stack_nil {s : State} (h : s.stack = []) (k : Nat) :
    s.stackEntry k = Config.stackInit k := by
  rw [State.stackEntry, h, List.getD_nil]

section
variable (init : Init) (t0 : Nat)

@[simp] theorem State.create_mem : (State.create init t0).mem = [] := rfl
@[simp] theorem State.create_pc : (State.create init t0).pc = 0x200 := rfl
@[simp] theorem State.create_i : (State.create init t0).i = init.i := rfl
@[simp] theorem State.create_stack : (State.create init t0).stack = [] := rfl
@[simp] theorem State.create_sp : (State.create init t0).sp = 0 := rfl
@[simp] theorem State.create_dt : (State.create init t0).dt = init.dt := rfl
@[simp] theorem State.create_dtLast : (State.create init t0).dtLast = t0 := rfl
@[simp] theorem State.create_disp : (State.create init t0).disp = init.disp := rfl
@[simp] theorem State.create_status : (State.create init t0).status = .run := rfl
@[simp] theorem State.create_key : (State.create init t0).key = none := rfl
@[simp] theorem State.readV_create (x : Reg) : (State.create init t0).readV x = init.v[x.val] := rfl

theorem State.create_mem_read (a : Nat) : (State.create init t0).mem.read a = 0 := by
  rw [State.create_mem, Memory.read_nil]

@[simp] theorem State.stackEntry_create (k : Nat) : (State.create init t0).stackEntry k = Config.stackInit k :=
  State.stackEntry_of_stack_nil (State.create_stack init t0) k

theorem State.create_disp_cell (r c : Nat) : (State.create init t0).disp.cell r c = init.disp.cell r c := by
  rw [State.create_disp]

end

/-- Settles O1: each row of R39's table is the lemma about that piece of state. -/
theorem creationHoldsTheStatedValues : Obligations.CreationHoldsTheStatedValues := fun init t0 =>
  ⟨State.create_mem_read init t0, State.create_pc init t0, State.readV_create init t0, State.create_i init t0,
    State.create_sp init t0, State.stackEntry_create init t0, State.create_dt init t0, State.create_dtLast init t0,
    State.create_disp_cell init t0, State.create_status init t0, State.create_key init t0⟩

end Sys2Proof.Machine
end

section
/-! SUPPORT. What the decoder answers, row by row of the table, and why at most one row accepts a word (R74). -/

namespace Sys2Proof

theorem OpcodeRow.accepts_iff (r : OpcodeRow) (op : Word) :
    r.accepts op = true ↔ op &&& r.maskBits = r.matchBits := beq_iff_eq

/-- R74, R75: what the decoder can answer: the instruction of a row that accepts the word, or UNRECOGNIZED. -/
theorem decode_cases (op : Word) :
    (∃ r ∈ opcodeTable, op &&& r.maskBits = r.matchBits ∧ decode op = .ok (r.build op)) ∨
    ((∀ r ∈ opcodeTable, op &&& r.maskBits ≠ r.matchBits) ∧ decode op = .error (.unrecognized op)) := by
  cases hfind : opcodeTable.find? (fun r => r.accepts op) with
  | some r =>
    have hop : op &&& r.maskBits = r.matchBits := by
      simpa only [OpcodeRow.accepts_iff] using List.find?_some hfind
    exact .inl ⟨r, List.mem_of_find?_eq_some hfind, hop, by rw [decode, hfind]⟩
  | none =>
    exact .inr ⟨fun r hr hop => List.find?_eq_none.mp hfind r hr ((r.accepts_iff op).mpr hop),
      by rw [decode, hfind]⟩

/-- A word that both rows accept makes their fixed bits agree wherever both rows fix them. -/
theorem OpcodeRow.fixedBits_agree_of_both_accept {q r : OpcodeRow} {op : Word}
    (hq : op &&& q.maskBits = q.matchBits) (hr : op &&& r.maskBits = r.matchBits) :
    q.matchBits &&& r.maskBits = r.matchBits &&& q.maskBits := by
  rw [← hq, ← hr, BitVec.and_assoc, BitVec.and_assoc, BitVec.and_comm q.maskBits]

/-- Any two rows of R76 differ in a bit that both of them fix. -/
theorem opcodeTable_pairwise_fixedBits_differ :
    opcodeTable.Pairwise (fun q r => q.matchBits &&& r.maskBits ≠ r.matchBits &&& q.maskBits) := by
  decide

/-- R74: no word matches both rows. -/
def OpcodeRow.Disjoint (q r : OpcodeRow) : Prop :=
  ∀ op : Word, ¬ (op &&& q.maskBits = q.matchBits ∧ op &&& r.maskBits = r.matchBits)

theorem OpcodeRow.Disjoint.symm {q r : OpcodeRow} (h : q.Disjoint r) : r.Disjoint q :=
  fun op hboth => h op hboth.symm

theorem opcodeTable_pairwise_disjoint : opcodeTable.Pairwise OpcodeRow.Disjoint :=
  opcodeTable_pairwise_fixedBits_differ.imp
    fun hdiffer _ ⟨hq, hr⟩ => hdiffer (OpcodeRow.fixedBits_agree_of_both_accept hq hr)

/-- R74: at most one row accepts a word, so the order of the rows does not matter. -/
theorem opcodeTable_row_unique {q r : OpcodeRow} {op : Word} (hqmem : q ∈ opcodeTable) (hrmem : r ∈ opcodeTable)
    (hq : op &&& q.maskBits = q.matchBits) (hr : op &&& r.maskBits = r.matchBits) : q = r := by
  have hsymm : Std.Symm OpcodeRow.Disjoint := ⟨fun _ _ => OpcodeRow.Disjoint.symm⟩
  by_contra hne
  exact opcodeTable_pairwise_disjoint.forall hqmem hrmem hne op ⟨hq, hr⟩

theorem decode_of_row_accepts {r : OpcodeRow} {op : Word} (hmem : r ∈ opcodeTable)
    (hop : op &&& r.maskBits = r.matchBits) : decode op = .ok (r.build op) := by
  obtain ⟨q, hqmem, hq, hdecode⟩ | ⟨hnone, -⟩ := decode_cases op
  · rwa [opcodeTable_row_unique hqmem hmem hq hop] at hdecode
  · exact absurd hop (hnone r hmem)

theorem decode_of_no_row_accepts {op : Word} (hnone : ∀ r ∈ opcodeTable, op &&& r.maskBits ≠ r.matchBits) :
    decode op = .error (.unrecognized op) := by
  obtain ⟨r, hmem, hop, -⟩ | ⟨-, hdecode⟩ := decode_cases op
  · exact absurd hop (hnone r hmem)
  · exact hdecode

theorem decode_ok_or_unrecognized (op : Word) :
    (∃ i, decode op = .ok i) ∨ decode op = .error (.unrecognized op) :=
  (decode_cases op).imp (fun ⟨r, _, _, hdecode⟩ => ⟨r.build op, hdecode⟩) And.right

/-- Settles O8: the decoder answers with the row it finds, and any two rows differ in a bit that both fix. -/
theorem decodingIsTotalAndUnambiguous : Obligations.DecodingIsTotalAndUnambiguous :=
  ⟨decode_ok_or_unrecognized, rfl, fun _ _ => decode_of_row_accepts, fun _ => decode_of_no_row_accepts,
    opcodeTable_pairwise_disjoint⟩

end Sys2Proof
end

section
/-! SUPPORT. The control transfers (41_control_flow.md): a frame equation for each write a transfer makes, the jump sum,
and what a call and a return answer on each side of their bound. -/

namespace Sys2Proof.Machine

section
variable (s : State)

/-! ### Stack entries and frames -/

@[simp] theorem State.stackEntry_writePc (w : Word) (k : Nat) : (s.writePc w).stackEntry k = s.stackEntry k := rfl

@[simp] theorem State.stackEntry_writeStack_stack (n k : Nat) :
    (s.writeStack s.stack n).stackEntry k = s.stackEntry k := rfl

theorem State.writePc_frame (w : Word) : { s.writePc w with pc := s.pc } = s := rfl

theorem State.writeStack_writePc_frame (es : List Word) (n : Nat) (w : Word) :
    { (s.writeStack es n).writePc w with stack := s.stack, sp := s.sp, pc := s.pc } = s := rfl

theorem State.writeStack_stack_writePc_frame (n : Nat) (w : Word) :
    { (s.writeStack s.stack n).writePc w with sp := s.sp, pc := s.pc } = s := rfl

/-! ### The sum of BNNN -/

/-- R123: twelve bits plus eight never carry out of sixteen. -/
theorem addrOperand_add_zext16_toNat (nnn : Addr12) (b : Byte) :
    (addrOperand nnn + zext16 b).toNat = nnn.toNat + b.toNat := by
  rw [BitVec.toNat_add_of_lt] <;> rw [addrOperand_toNat, zext16_toNat]
  omega

/-- R123: the largest sum is 0xFFF + 0xFF. -/
theorem addr12_add_byte_le (nnn : Addr12) (b : Byte) : nnn.toNat + b.toNat ≤ 0x10FE := by omega

/-! ### Push and Pop on each side of their bound -/

variable {s}

theorem exec_callAddr_of_sp_ne (nnn : Addr12) (h : s.sp ≠ Config.stackDepth) :
    exec (.callAddr nnn) s =
      .next ((s.writeStack (setEntry 0 s.stack s.sp s.pc) (s.sp + 1)).writePc (addrOperand nnn)) := by
  obtain ⟨hfull, -⟩ | ⟨-, e⟩ := exec_callAddr_cases s nnn
  · exact absurd hfull h
  · exact e

theorem exec_callAddr_of_sp_eq (nnn : Addr12) (h : s.sp = Config.stackDepth) :
    exec (.callAddr nnn) s = .next (s.raise .stackOverflow) := by
  obtain ⟨-, e⟩ | ⟨hroom, -⟩ := exec_callAddr_cases s nnn
  · exact e
  · exact absurd h hroom

theorem exec_ret_of_sp_ne_zero (h : s.sp ≠ 0) :
    exec .ret s = .next ((s.writeStack s.stack (s.sp - 1)).writePc (s.stackEntry (s.sp - 1))) := by
  obtain ⟨hempty, -⟩ | ⟨-, e⟩ := exec_ret_cases s
  · exact absurd hempty h
  · exact e

theorem exec_ret_of_sp_eq_zero (h : s.sp = 0) : exec .ret s = .next (s.raise .stackUnderflow) := by
  obtain ⟨-, e⟩ | ⟨hused, -⟩ := exec_ret_cases s
  · exact e
  · exact absurd h hused

end

/-! ### The statements -/

/-- Settles O23: the push writes entry SP alone, and the overflow raises before anything is written. -/
theorem callPushesThePcAndJumps : Obligations.CallPushesThePcAndJumps := by
  intro nnn s
  have entry (k : Nat) := s.stackEntry_writeStack_setEntry s.sp (s.sp + 1) k s.pc
  refine ⟨(Laws.FixedBits.callAddr nnn).1, fun hroom => ?_, exec_callAddr_of_sp_eq nnn⟩
  refine ⟨_, exec_callAddr_of_sp_ne nnn hroom, ?pushed, rfl, addrOperand_toNat nnn, fun k hk => ?kept,
    s.writeStack_writePc_frame _ _ _⟩
  case pushed => rw [State.stackEntry_writePc, entry, if_pos rfl]
  case kept => rw [State.stackEntry_writePc, entry, if_neg hk]

/-- Settles O22: the jump writes pc alone, with the zero-extended address. -/
theorem jumpLoadsThePc : Obligations.JumpLoadsThePc := fun nnn s =>
  ⟨(Laws.FixedBits.jpAddr nnn).1, _, exec_jpAddr s nnn, addrOperand_toNat nnn, s.writePc_frame _⟩

/-- Settles O24: the pop moves SP down to the entry it reads, and the underflow raises before anything is written. -/
theorem returnPopsThePc : Obligations.ReturnPopsThePc := fun s =>
  ⟨Laws.FixedBits.ret.1,
    fun hused => ⟨_, exec_ret_of_sp_ne_zero hused, Nat.sub_one_add_one hused, rfl,
      s.writeStack_stack_writePc_frame _ _⟩,
    exec_ret_of_sp_eq_zero⟩

/-- Settles O26: the sum is exact because it stays below 0x10000. -/
theorem offsetJumpAddsV0 : Obligations.OffsetJumpAddsV0 := by
  intro nnn s
  have sum := addrOperand_add_zext16_toNat nnn (s.readV 0)
  refine ⟨(Laws.FixedBits.jpV0 nnn).1, _, exec_jpV0 s nnn, sum, ?bound, s.writePc_frame _⟩
  case bound => exact sum.trans_le (addr12_add_byte_le nnn (s.readV 0))

end Sys2Proof.Machine
end

section
/-! SUPPORT. The words 5XYn and 9XYn of R75: a row that fixes a nibble accepts only words with that nibble, and the rows
of these two families fix the low nibble at 0. -/

namespace Sys2Proof

theorem OpcodeRow.nibble_eq_of_accepts {r : OpcodeRow} {op : Word} (start : Nat)
    (hfixed : r.maskBits.extractLsb' start 4 = BitVec.allOnes 4) (hop : op &&& r.maskBits = r.matchBits) :
    op.extractLsb' start 4 = r.matchBits.extractLsb' start 4 := by
  rw [← hop, BitVec.extractLsb'_and, hfixed, BitVec.and_allOnes]

theorem topNibble_toNat (op : Word) : (op.extractLsb' 12 4).toNat = op.toNat / 4096 := by
  rw [BitVec.extractLsb'_toNat, Nat.shiftRight_eq_div_pow]
  omega

theorem opcodeTable_fixes_topNibble :
    ∀ r ∈ opcodeTable, r.maskBits.extractLsb' 12 4 = BitVec.allOnes 4 := by
  decide

/-- R133, R134: the rows of 5XY0 and 9XY0, the only ones with these top nibbles, fix the low nibble at 0. -/
theorem opcodeTable_fixes_lowNibble_of_registerSkip :
    ∀ r ∈ opcodeTable, (r.matchBits.extractLsb' 12 4).toNat = 5 ∨ (r.matchBits.extractLsb' 12 4).toNat = 9 →
      r.maskBits.extractLsb' 0 4 = BitVec.allOnes 4 ∧ fieldN r.matchBits = 0 := by
  decide

theorem fieldN_eq_zero_of_row_accepts {r : OpcodeRow} {op : Word} (hmem : r ∈ opcodeTable)
    (hop : op &&& r.maskBits = r.matchBits) (htop : op.toNat / 4096 = 5 ∨ op.toNat / 4096 = 9) : fieldN op = 0 := by
  have top := OpcodeRow.nibble_eq_of_accepts 12 (opcodeTable_fixes_topNibble r hmem) hop
  rw [← topNibble_toNat, top] at htop
  obtain ⟨hfixed, hzero⟩ := opcodeTable_fixes_lowNibble_of_registerSkip r hmem htop
  rw [fieldN, OpcodeRow.nibble_eq_of_accepts 0 hfixed hop]
  exact hzero

theorem decode_registerSkip_of_fieldN_ne_zero (op : Word) (htop : op.toNat / 4096 = 5 ∨ op.toNat / 4096 = 9)
    (hlow : fieldN op ≠ 0) : decode op = .error (.unrecognized op) :=
  decode_of_no_row_accepts fun _ hmem hop => hlow (fieldN_eq_zero_of_row_accepts hmem hop htop)

end Sys2Proof
end

section
/-! SUPPORT. The conditional skips (42_skips.md): each writes pc alone, so a statement turns on when its condition
holds. -/

namespace Sys2Proof.Machine

/-! ### The conditions -/

theorem pc_of_skip_on_eq (a b : Byte) (p q : Word) : (if a == b then p else q) = if a = b then p else q := by
  simp only [beq_iff_eq]

theorem pc_of_skip_on_ne (a b : Byte) (p q : Word) : (if a != b then p else q) = if a = b then q else p := by
  simp only [bne_iff_ne, ne_eq, ite_not]

/-- R135, R136: the comparison is of numbers, the key as an integer and V[X] as a whole byte. -/
theorem State.keyIs_iff (s : State) (x : Reg) : s.keyIs x = true ↔ s.key.map Fin.val = some (s.readV x).toNat := by
  unfold State.keyIs State.sampleKey
  cases s.key <;> simp

theorem State.keyIs_eq_false_iff (s : State) (x : Reg) :
    s.keyIs x = false ↔ s.key.map Fin.val ≠ some (s.readV x).toNat := by
  rw [← Bool.not_eq_true, s.keyIs_iff]

/-- R34: a key is below 16. -/
theorem map_val_ne_of_none_or_ge {key : Option HexKey} {n : Nat} (h : key = none ∨ 16 ≤ n) :
    key.map Fin.val ≠ some n := by
  cases key with
  | none => simp
  | some k =>
    have hn : 16 ≤ n := h.resolve_left (Option.some_ne_none k)
    simp only [Option.map_some, ne_eq, Option.some.injEq]
    omega

/-! ### The statements -/

/-- Settles O27: each skip writes pc alone, and 4XNN's condition is the negation of 3XNN's. -/
theorem byteSkipsCompareWithTheByte : Obligations.ByteSkipsCompareWithTheByte := fun x nn s =>
  ⟨(Laws.FixedBits.seByte x nn).1, (Laws.FixedBits.sneByte x nn).1, _, _, exec_seByte s x nn, exec_sneByte s x nn,
    pc_of_skip_on_eq _ _ _ _, s.writePc_frame _, pc_of_skip_on_ne _ _ _ _, s.writePc_frame _⟩

/-- Settles O28: no row accepts a word 5XYn or 9XYn with n ≠ 0, and 9XY0's condition is the negation of 5XY0's. -/
theorem registerSkipsCompareRegisters : Obligations.RegisterSkipsCompareRegisters :=
  ⟨decode_registerSkip_of_fieldN_ne_zero, fun x y s =>
    ⟨(Laws.FixedBits.seReg x y).1, (Laws.FixedBits.sneReg x y).1, _, _, exec_seReg s x y, exec_sneReg s x y,
      pc_of_skip_on_eq _ _ _ _, s.writePc_frame _, pc_of_skip_on_ne _ _ _ _, s.writePc_frame _⟩⟩

/-- Settles O29: both skips turn on whether the sampled key is V[X], and no key is 16 or more. -/
theorem keySkipsCompareWithTheKey : Obligations.KeySkipsCompareWithTheKey := by
  intro x s
  refine ⟨(Laws.FixedBits.skp x).1, (Laws.FixedBits.sknp x).1, _, _, exec_skp s x, exec_sknp s x,
    fun heq => ?equal, fun hne => ?different, fun hnone => ?noMatch, s.writePc_frame _, s.writePc_frame _⟩
  case equal => simp [(s.keyIs_iff x).mpr heq]
  case different => simp [(s.keyIs_eq_false_iff x).mpr hne]
  case noMatch => simp [(s.keyIs_eq_false_iff x).mpr (map_val_ne_of_none_or_ge hnone)]

end Sys2Proof.Machine
end

section
/-! SUPPORT. Register loads, arithmetic and logic (43_alu.md): the result and the flag of each flagged operation as
numbers, the equation each operation keeps between the two (R154), and the frame of a register write. -/

namespace Sys2Proof.Machine

/-! ### The flagged operations as numbers -/

theorem b2u_decide (p : Prop) [Decidable p] : b2u (decide p) = if p then 1 else 0 := by
  simp only [b2u, decide_eq_true_eq]

theorem b2u_toNat (c : Bool) : (b2u c).toNat = c.toNat := by
  cases c <;> rfl

theorem b2u_decide_toNat (p : Prop) [Decidable p] : (b2u (decide p)).toNat = if p then 1 else 0 := by
  rw [b2u_toNat, Bool.toNat, Bool.cond_decide]

section
variable (x y : Byte)

theorem addWithCarry_flag : (addWithCarry x y).flag = if 256 ≤ x.toNat + y.toNat then 1 else 0 :=
  b2u_decide _

theorem addWithCarry_flag_toNat : (addWithCarry x y).flag.toNat = if 256 ≤ x.toNat + y.toNat then 1 else 0 :=
  b2u_decide_toNat _

theorem addWithCarry_result_toNat : (addWithCarry x y).result.toNat = (x.toNat + y.toNat) % 256 :=
  wrap8_toNat _

theorem subWithBorrow_flag : (subWithBorrow x y).flag = if x.toNat < y.toNat then 1 else 0 :=
  b2u_decide _

theorem subWithBorrow_flag_toNat : (subWithBorrow x y).flag.toNat = if x.toNat < y.toNat then 1 else 0 :=
  b2u_decide_toNat _

theorem subWithBorrow_result_toNat : (subWithBorrow x y).result.toNat = (x.toNat + 256 - y.toNat) % 256 :=
  wrap8_toNat _

theorem shiftRightOut_flag_toNat : (shiftRightOut x).flag.toNat = x.toNat % 2 := by
  rw [shiftRightOut, b2u_toNat, BitVec.getLsbD, Nat.toNat_testBit, pow_zero, Nat.div_one]

theorem shiftRightOut_result_toNat : (shiftRightOut x).result.toNat = x.toNat / 2 := by
  rw [shiftRightOut, BitVec.toNat_ushiftRight, Nat.shiftRight_eq_div_pow, pow_one]

/-- Bit 7 is the top bit of a byte, so nothing is left above it. -/
theorem shiftLeftOut_flag_toNat : (shiftLeftOut x).flag.toNat = x.toNat / 128 := by
  rw [shiftLeftOut, b2u_toNat, BitVec.getLsbD, Nat.toNat_testBit]
  omega

theorem shiftLeftOut_result_toNat : (shiftLeftOut x).result.toNat = x.toNat * 2 % 256 := by
  rw [shiftLeftOut, BitVec.toNat_shiftLeft, Nat.shiftLeft_eq, pow_one]

/-! ### R154: the result and the flag together are the exact value -/

theorem addWithCarry_exact :
    (addWithCarry x y).result.toNat + 256 * (addWithCarry x y).flag.toNat = x.toNat + y.toNat := by
  rw [addWithCarry_result_toNat, addWithCarry_flag_toNat]
  split
  case isTrue carry => omega
  case isFalse fits => omega

theorem subWithBorrow_exact :
    ((subWithBorrow x y).result.toNat : Int) - 256 * (subWithBorrow x y).flag.toNat = x.toNat - y.toNat := by
  rw [subWithBorrow_result_toNat, subWithBorrow_flag_toNat]
  split
  case isTrue borrow => omega
  case isFalse fits => omega

theorem shiftRightOut_exact : 2 * (shiftRightOut x).result.toNat + (shiftRightOut x).flag.toNat = x.toNat := by
  rw [shiftRightOut_result_toNat, shiftRightOut_flag_toNat, Nat.div_add_mod]

theorem shiftLeftOut_exact : (shiftLeftOut x).result.toNat + 256 * (shiftLeftOut x).flag.toNat = 2 * x.toNat := by
  rw [shiftLeftOut_result_toNat, shiftLeftOut_flag_toNat]
  omega

end

/-! ### Writes of registers -/

theorem State.writeV_frame (s : State) (x : Reg) (b : Byte) : { s.writeV x b with v := s.v } = s := rfl

/-- What is read back after an instruction that writes a flagged result, when its destination is not VF (R141). -/
theorem readV_of_exec_writeFlagged {i : Instr} {s t : State} {x : Reg} {f : Flagged} (hx : x ≠ regF)
    (hexec : exec i s = .next (s.writeFlagged x f)) (h : exec i s = .next t) :
    t.readV x = f.result ∧ t.readV regF = f.flag := by
  obtain rfl : s.writeFlagged x f = t := Host.Outcome.next.inj (hexec.symm.trans h)
  exact ⟨s.readV_writeFlagged_dest f hx, s.readV_writeFlagged_F x f⟩

/-! ### The statements -/

/-- Settles O30: both are one write of V[X]. -/
theorem loadsWriteTheRegister : Obligations.LoadsWriteTheRegister := fun x y nn s =>
  ⟨(Laws.FixedBits.ldByte x nn).1, (Laws.FixedBits.ldReg x y).1, _, _, exec_ldByte s x nn, exec_ldReg s x y,
    s.readV_writeV_same x _, fun _ hz => s.readV_writeV_ne _ hz, s.writeV_frame x _,
    s.readV_writeV_same x _, fun _ hz => s.readV_writeV_ne _ hz, s.writeV_frame x _⟩

/-- Settles O31: the wrapped sum is one write of V[X], so VF changes only as the destination. -/
theorem addByteWrapsWithoutAFlag : Obligations.AddByteWrapsWithoutAFlag := by
  intro x nn s
  refine ⟨(Laws.FixedBits.addByte x nn).1, _, exec_addByte s x nn, ?sum,
    fun _ hz => s.readV_writeV_ne _ hz, s.writeV_frame x _⟩
  case sum => rw [State.readV_writeV_same, wrap8_toNat]

/-- Settles O32: each is one write of V[X], with the bitwise operation on the operands before. -/
theorem logicWorksBitByBit : Obligations.LogicWorksBitByBit := by
  intro x y s
  refine ⟨(Laws.FixedBits.orReg x y).1, (Laws.FixedBits.andReg x y).1, (Laws.FixedBits.xorReg x y).1, _, _, _,
    exec_orReg s x y, exec_andReg s x y, exec_xorReg s x y, fun k => ?or, fun k => ?and, fun k => ?xor,
    fun _ hz => ⟨s.readV_writeV_ne _ hz, s.readV_writeV_ne _ hz, s.readV_writeV_ne _ hz⟩,
    s.writeV_frame x _, s.writeV_frame x _, s.writeV_frame x _⟩
  case or => rw [State.readV_writeV_same, BitVec.getLsbD_or]
  case and => rw [State.readV_writeV_same, BitVec.getLsbD_and]
  case xor => rw [State.readV_writeV_same, BitVec.getLsbD_xor]

/-- Settles O33: the flag is written after the result, so VF ends as the carry for every X. -/
theorem addSetsTheCarry : Obligations.AddSetsTheCarry := by
  intro x y s
  refine ⟨(Laws.FixedBits.addReg x y).1, _, exec_addReg s x y, ?carry, fun hx => ?sum,
    fun _ hzx hzF => s.readV_writeFlagged_other _ hzx hzF, s.writeFlagged_frame x _⟩
  case carry => rw [State.readV_writeFlagged_F, addWithCarry_flag]
  case sum => rw [s.readV_writeFlagged_dest _ hx, addWithCarry_result_toNat]

/-- Settles O34: 8XY7 is 8XY5 with the operands exchanged, and VF ends as the borrow for every X. -/
theorem subtractionsSetTheBorrow : Obligations.SubtractionsSetTheBorrow := by
  intro x y s
  refine ⟨(Laws.FixedBits.subReg x y).1, (Laws.FixedBits.subnReg x y).1, _, _, exec_subReg s x y, exec_subnReg s x y,
    ?borrow, fun hx => ?difference, ?reverseBorrow, fun hx => ?reverseDifference,
    fun _ hzx hzF => ⟨s.readV_writeFlagged_other _ hzx hzF, s.readV_writeFlagged_other _ hzx hzF⟩,
    s.writeFlagged_frame x _, s.writeFlagged_frame x _⟩
  case borrow | reverseBorrow => rw [State.readV_writeFlagged_F, subWithBorrow_flag]
  case difference | reverseDifference => rw [s.readV_writeFlagged_dest _ hx, subWithBorrow_result_toNat]

/-- Settles O35: the answer of either shift does not mention Y, and VF ends as the bit shifted out for every X. -/
theorem shiftsSetTheBitShiftedOut : Obligations.ShiftsSetTheBitShiftedOut := by
  intro x y s
  refine ⟨(Laws.FixedBits.shrReg x y).1, (Laws.FixedBits.shlReg x y).1, _, _, exec_shrReg s x, exec_shlReg s x,
    ?lowBit, fun hx => ?half, ?highBit, fun hx => ?double,
    fun _ hzx hzF => ⟨s.readV_writeFlagged_other _ hzx hzF, s.readV_writeFlagged_other _ hzx hzF⟩,
    s.writeFlagged_frame x _, s.writeFlagged_frame x _⟩
  case lowBit => rw [State.readV_writeFlagged_F, shiftRightOut_flag_toNat]
  case half => rw [s.readV_writeFlagged_dest _ hx, shiftRightOut_result_toNat]
  case highBit => rw [State.readV_writeFlagged_F, shiftLeftOut_flag_toNat]
  case double => rw [s.readV_writeFlagged_dest _ hx, shiftLeftOut_result_toNat]

/-- Settles O36: result and flag are read back, and each operation is exact in the two together. -/
theorem flagIdentitiesHold : Obligations.FlagIdentitiesHold := by
  intro x y s t hx
  refine ⟨fun h => ?add, fun h => ?sub, fun h => ?subn, fun h => ?shr, fun h => ?shl⟩
  case add =>
    obtain ⟨hresult, hflag⟩ := readV_of_exec_writeFlagged hx (exec_addReg s x y) h
    rw [hresult, hflag, addWithCarry_exact]
  case sub =>
    obtain ⟨hresult, hflag⟩ := readV_of_exec_writeFlagged hx (exec_subReg s x y) h
    rw [hresult, hflag, subWithBorrow_exact]
  case subn =>
    obtain ⟨hresult, hflag⟩ := readV_of_exec_writeFlagged hx (exec_subnReg s x y) h
    rw [hresult, hflag, subWithBorrow_exact]
  case shr =>
    obtain ⟨hresult, hflag⟩ := readV_of_exec_writeFlagged hx (exec_shrReg s x y) h
    rw [hresult, hflag, shiftRightOut_exact]
  case shl =>
    obtain ⟨hresult, hflag⟩ := readV_of_exec_writeFlagged hx (exec_shlReg s x y) h
    rw [hresult, hflag, shiftLeftOut_exact]

/-- Settles O37: V[X] is the AND of the step's random byte and NN. -/
theorem randomByteIsMasked : Obligations.RandomByteIsMasked := by
  intro x nn s
  refine ⟨(Laws.FixedBits.rnd x nn).1, _, exec_rnd s x nn, fun k => ?bit,
    fun _ hz => s.readV_writeV_ne _ hz, s.writeV_frame x _⟩
  case bit => rw [State.readV_writeV_same, BitVec.getLsbD_and]

end Sys2Proof.Machine
end

section
/-! SUPPORT. The address register and memory instructions (44_index_memory.md): the frame of each write they make, what
FX1E's sum comes to for each value of I_OVERFLOW, the bytes a store leaves and the registers a load leaves, and what
FX33, FX55 and FX65 answer on each side of the range check. -/

namespace Sys2Proof.Machine

section
variable (s : State)

/-! ### Frames -/

theorem State.writeI_frame (w : Word) : { s.writeI w with i := s.i } = s := rfl

theorem State.writeMem_frame (m : Memory) : { s.writeMem m with mem := s.mem } = s := rfl

theorem State.loadV_frame (bs : List Byte) : { s.loadV bs with v := s.v } = s := rfl

theorem State.addToI_frame (ov : Config.IOverflow) (b : Byte) :
    { s.addToI ov b with i := s.i, status := s.status } = s := by
  obtain ⟨w, e⟩ | ⟨-, -, e⟩ := s.addToI_cases ov b
  case inl => rw [e]; rfl
  case inr => rw [e]; rfl

/-! ### Values in range of their width, and the sum of FX1E -/

theorem wrap8_toNat_of_lt {n : Nat} (h : n < 256) : (wrap8 n).toNat = n := by
  rw [wrap8_toNat, Nat.mod_eq_of_lt h]

theorem wrap16_toNat_of_lt {n : Nat} (h : n < 0x10000) : (wrap16 n).toNat = n := by
  rw [wrap16_toNat, Nat.mod_eq_of_lt h]

/-- R161: the sum of a word and a byte passes 0xFFFF by less than 0x10000, so one wrap takes off exactly that. -/
theorem wrap16_add_toNat_of_gt {w : Word} {b : Byte} (h : 0xFFFF < w.toNat + b.toNat) :
    (wrap16 (w.toNat + b.toNat)).toNat + 0x10000 = w.toNat + b.toNat := by
  rw [wrap16_toNat]
  omega

theorem State.addToI_of_le (ov : Config.IOverflow) {b : Byte} (h : s.i.toNat + b.toNat ≤ 0xFFFF) :
    s.addToI ov b = s.writeI (wrap16 (s.i.toNat + b.toNat)) :=
  if_pos h

theorem State.addToI_wrap16 (b : Byte) : s.addToI .wrap16 b = s.writeI (wrap16 (s.i.toNat + b.toNat)) :=
  ite_self _

theorem State.addToI_fault_of_gt {b : Byte} (h : 0xFFFF < s.i.toNat + b.toNat) :
    s.addToI .fault b = s.raise .indexOverflow :=
  if_neg h.not_ge

theorem exec_addI (x : Reg) : exec (.addI x) s = .next (s.addToI Config.iOverflow (s.readV x)) := rfl

/-! ### The bytes of a store and the registers of a load -/

/-- A row of bytes leaves every address outside it alone. -/
theorem Memory.read_writeList_outside (bs : List Byte) (m : Memory) {a b : Nat} (h : b < a ∨ a + bs.length ≤ b) :
    (m.writeList a bs).read b = m.read b :=
  h.elim (Memory.read_writeList_before bs m) (Memory.read_writeList_after bs m)

/-- R163: the hundreds, tens and ones of a byte, read back as numbers. -/
theorem Memory.read_writeList_decimalDigits (m : Memory) (a : Nat) (b : Byte) :
    ((m.writeList a (decimalDigits b)).read a).toNat = b.toNat / 100 ∧
    ((m.writeList a (decimalDigits b)).read (a + 1)).toNat = b.toNat / 10 % 10 ∧
    ((m.writeList a (decimalDigits b)).read (a + 2)).toNat = b.toNat % 10 := by
  have stored (k : Nat) (hk : k < 3) := Memory.read_writeList_in (decimalDigits b) m a k hk
  refine ⟨?hundreds, ?tens, ?ones⟩
  case hundreds => exact (congrArg _ (stored 0 (by decide))).trans (wrap8_toNat_of_lt (by omega))
  case tens => exact (congrArg _ (stored 1 (by decide))).trans (wrap8_toNat_of_lt (by omega))
  case ones => exact (congrArg _ (stored 2 (by decide))).trans (wrap8_toNat_of_lt (by omega))

/-- R164: byte `k` of the stored row is V[k]. -/
theorem Memory.read_writeList_firstRegs (m : Memory) (a : Nat) {x k : Reg} (h : k ≤ x) :
    (m.writeList a (s.firstRegs x)).read (a + k.val) = s.readV k := by
  rw [Memory.read_writeList, if_pos (Nat.le_add_right a k.val), Nat.add_sub_cancel_left, State.firstRegs_getD s x k h]

/-- R165: a load of `n` bytes from `a` writes the registers below `n` alone. -/
theorem State.readV_loadV_readList (m : Memory) (a n : Nat) (k : Reg) :
    (s.loadV (m.readList a n)).readV k = if k.val < n then m.read (a + k.val) else s.readV k := by
  rw [State.readV_loadV, Memory.readList_getD]

/-! ### Both sides of the range check -/

variable {s} {x : Reg}

theorem exec_ldB_of_lt (h : s.i.toNat + 2 < 4096) :
    exec (.ldB x) s = .next (s.writeMem (s.mem.writeList s.i.toNat (decimalDigits (s.readV x)))) :=
  ((exec_ldB_cases s x).resolve_right fun fault => fault.1.not_gt h).2

theorem exec_ldB_of_ge (h : 4096 ≤ s.i.toNat + 2) : exec (.ldB x) s = .next (s.raise .memoryRange) :=
  ((exec_ldB_cases s x).resolve_left fun done => done.1.not_ge h).2

theorem exec_storeRegs_of_lt (h : s.i.toNat + x.val < 4096) :
    exec (.storeRegs x) s = .next (s.writeMem (s.mem.writeList s.i.toNat (s.firstRegs x))) :=
  ((exec_storeRegs_cases s x).resolve_right fun fault => fault.1.not_gt h).2

theorem exec_storeRegs_of_ge (h : 4096 ≤ s.i.toNat + x.val) :
    exec (.storeRegs x) s = .next (s.raise .memoryRange) :=
  ((exec_storeRegs_cases s x).resolve_left fun done => done.1.not_ge h).2

theorem exec_loadRegs_of_lt (h : s.i.toNat + x.val < 4096) :
    exec (.loadRegs x) s = .next (s.loadV (s.mem.readList s.i.toNat (x.val + 1))) :=
  ((exec_loadRegs_cases s x).resolve_right fun fault => fault.1.not_gt h).2

theorem exec_loadRegs_of_ge (h : 4096 ≤ s.i.toNat + x.val) :
    exec (.loadRegs x) s = .next (s.raise .memoryRange) :=
  ((exec_loadRegs_cases s x).resolve_left fun done => done.1.not_ge h).2

end

/-! ### The statements -/

/-- Settles O39: the sum is exact up to 0xFFFF for either parameter, and above it each value of I_OVERFLOW is a case. -/
theorem addToIndexFollowsTheOverflowParameter : Obligations.AddToIndexFollowsTheOverflowParameter := by
  intro x s
  refine ⟨(Laws.FixedBits.addI x).1, _, exec_addI s x, s.addToI_frame _ _, fun hfits => ?fits, fun hover => ?above⟩
  case fits =>
    rw [s.addToI_of_le _ hfits]
    exact ⟨wrap16_toNat_of_lt (Nat.lt_succ_of_le hfits), rfl⟩
  case above =>
    cases Config.iOverflow with
    | wrap16 =>
      rw [State.addToI_wrap16]
      exact ⟨wrap16_add_toNat_of_gt hover, rfl⟩
    | fault =>
      rw [s.addToI_fault_of_gt hover]
      exact ⟨rfl, rfl⟩

/-- Settles O40: FX33 is one store of three digits, and the range check comes before it. -/
theorem decimalDigitsAreStored : Obligations.DecimalDigitsAreStored := by
  intro x s
  obtain ⟨hundreds, tens, ones⟩ := Memory.read_writeList_decimalDigits s.mem s.i.toNat (s.readV x)
  exact ⟨(Laws.FixedBits.ldB x).1,
    fun hroom => ⟨_, exec_ldB_of_lt hroom, hundreds, tens, ones,
      fun _ hout => Memory.read_writeList_outside _ _ hout, s.writeMem_frame _⟩,
    exec_ldB_of_ge⟩

/-- Settles O41: FX55 is one store of X + 1 registers, and the range check comes before it. -/
theorem registersAreStored : Obligations.RegistersAreStored := by
  intro x s
  refine ⟨(Laws.FixedBits.storeRegs x).1, fun hroom => ?_, exec_storeRegs_of_ge⟩
  refine ⟨_, exec_storeRegs_of_lt hroom, fun _ hk => Memory.read_writeList_firstRegs s _ _ hk, fun a hout => ?kept,
    s.writeMem_frame _⟩
  case kept =>
    refine Memory.read_writeList_outside _ _ (hout.imp_right fun hafter => ?_)
    rwa [State.firstRegs_length]

/-- Settles O42: FX65 replaces the registers up to X alone, and the range check comes before it. -/
theorem registersAreLoaded : Obligations.RegistersAreLoaded := by
  intro x s
  refine ⟨(Laws.FixedBits.loadRegs x).1, fun hroom => ?_, exec_loadRegs_of_ge⟩
  refine ⟨_, exec_loadRegs_of_lt hroom, fun k hk => ?loaded, fun k hk => ?kept, s.loadV_frame _⟩
  case loaded => rw [State.readV_loadV_readList, if_pos (Nat.lt_succ_of_le hk)]
  case kept => rw [State.readV_loadV_readList, if_neg (Nat.not_lt_of_le hk)]

/-- Settles O43: what FX65 reads is what FX55 stored, because I and those bytes are as the FX55 left them. -/
theorem storeThenLoadRestoresRegisters : Obligations.StoreThenLoadRestoresRegisters := by
  intro x s t u hroom hstore hui hbytes
  obtain ⟨-, store, -⟩ := registersAreStored x s
  obtain ⟨t', hstore', hstored, -, hframe⟩ := store hroom
  obtain rfl : t' = t := Host.Outcome.next.inj (hstore'.symm.trans hstore)
  have hkept : t'.i = s.i := (congrArg State.i hframe :)
  have hi : u.i = s.i := hui.trans hkept
  obtain ⟨-, load, -⟩ := registersAreLoaded x u
  obtain ⟨w, hload, hloaded, -⟩ := load (hi ▸ hroom)
  refine ⟨w, hload, fun k hk => ?_⟩
  calc w.readV k = u.mem.read (s.i.toNat + k.val) := hi ▸ hloaded k hk
    _ = t'.mem.read (s.i.toNat + k.val) := hbytes _ (Nat.le_add_right _ _) (Nat.add_le_add_left hk _)
    _ = s.readV k := hstored k hk

/-- Settles O38: NNN has twelve bits and five times a byte has eleven, so I holds both exactly. -/
theorem indexLoadsWriteI : Obligations.IndexLoadsWriteI := fun nnn x s =>
  ⟨(Laws.FixedBits.ldI nnn).1, (Laws.FixedBits.ldF x).1, _, _, exec_ldI s nnn, exec_ldF s x,
    addrOperand_toNat nnn, s.writeI_frame _, wrap16_toNat_of_lt (by omega), s.writeI_frame _⟩

end Sys2Proof.Machine
end

section
/-! SUPPORT. The words 0XNN of R75: the rows 00E0 and 00EE fix every nibble, so they accept only words with X = 0. -/

namespace Sys2Proof

/-- R122, R170: 00E0 and 00EE, the only rows with top nibble 0, fix the second nibble at 0. -/
theorem opcodeTable_fixes_secondNibble_of_topNibble_zero :
    ∀ r ∈ opcodeTable, (r.matchBits.extractLsb' 12 4).toNat = 0 →
      r.maskBits.extractLsb' 8 4 = BitVec.allOnes 4 ∧ fieldX r.matchBits = 0 := by
  decide

theorem fieldX_eq_zero_of_row_accepts {r : OpcodeRow} {op : Word} (hmem : r ∈ opcodeTable)
    (hop : op &&& r.maskBits = r.matchBits) (htop : op.toNat / 4096 = 0) : fieldX op = 0 := by
  have top := OpcodeRow.nibble_eq_of_accepts 12 (opcodeTable_fixes_topNibble r hmem) hop
  rw [← topNibble_toNat, top] at htop
  obtain ⟨hfixed, hzero⟩ := opcodeTable_fixes_secondNibble_of_topNibble_zero r hmem htop
  rw [fieldX, OpcodeRow.nibble_eq_of_accepts 8 hfixed hop]
  exact hzero

theorem decode_topNibble_zero_of_fieldX_ne_zero (op : Word) (htop : op.toNat / 4096 = 0) (hx : fieldX op ≠ 0) :
    decode op = .error (.unrecognized op) :=
  decode_of_no_row_accepts fun _ hmem hop => hx (fieldX_eq_zero_of_row_accepts hmem hop htop)

end Sys2Proof
end

section
/-! SUPPORT. The display instructions (45_display.md). A drawing is described by the picture of the bits it puts on the
cells: one bit, one row and a whole sprite are drawings, and two drawings that share no cell make one. -/

namespace Sys2Proof.Machine

/-! ### Drawings -/

/-- R172, R174: `b` is `a` after the bits of the picture `p` were drawn: each cell of the grid is XORed with its bit,
and a bit 1 over a lit cell collides. -/
structure Blitted.Draws (p : Nat → Nat → Bool) (a b : Blitted) : Prop where
  cell : ∀ {r c}, r < 32 → c < 64 → b.disp.cell r c = (a.disp.cell r c ^^ p r c)
  collided : b.collided = true ↔
    a.collided = true ∨ ∃ r c, r < 32 ∧ c < 64 ∧ p r c = true ∧ a.disp.cell r c = true

namespace Blitted.Draws
variable {p q w : Nat → Nat → Bool} {a b d : Blitted}

/-- R173: a picture that is dark on the grid draws nothing. -/
theorem of_dark (hdark : ∀ {r c}, r < 32 → c < 64 → p r c = false) : Draws p a a where
  cell hr hc := by rw [hdark hr hc, Bool.xor_false]
  collided := by
    refine (or_iff_left ?_).symm
    rintro ⟨r, c, hr, hc, hbit, -⟩
    exact Bool.false_ne_true ((hdark hr hc).symm.trans hbit)

/-- Two drawings, one after the other, draw the picture `w` when each cell gets its bit from one of them alone. -/
theorem trans (hab : Draws p a b) (hbd : Draws q b d)
    (hsplit : ∀ r c, (w r c = p r c ∧ q r c = false) ∨ (w r c = q r c ∧ p r c = false)) : Draws w a d where
  cell {r c} hr hc := by
    rw [hbd.cell hr hc, hab.cell hr hc]
    obtain ⟨hw, hq⟩ | ⟨hw, hp⟩ := hsplit r c
    · rw [hw, hq, Bool.xor_false]
    · rw [hw, hp, Bool.xor_false]
  collided := by
    have hit (r c : Nat) : (r < 32 ∧ c < 64 ∧ w r c = true ∧ a.disp.cell r c = true) ↔
        (r < 32 ∧ c < 64 ∧ p r c = true ∧ a.disp.cell r c = true) ∨
        (r < 32 ∧ c < 64 ∧ q r c = true ∧ b.disp.cell r c = true) := by
      rw [← and_or_left, ← and_or_left]
      refine and_congr_right fun hr => and_congr_right fun hc => ?_
      rw [hab.cell hr hc]
      obtain ⟨hw, hq⟩ | ⟨hw, hp⟩ := hsplit r c
      · simp [hw, hq]
      · simp [hw, hp]
    simp only [hbd.collided, hab.collided, hit, exists_or, or_assoc]

/-- A lit cell goes dark exactly where a bit 1 is drawn over it. -/
theorem erased_iff (hab : Draws p a b) {r c : Nat} (hr : r < 32) (hc : c < 64) :
    (a.disp.cell r c = true ∧ b.disp.cell r c = false) ↔ (p r c = true ∧ a.disp.cell r c = true) := by
  rw [hab.cell hr hc]
  cases a.disp.cell r c <;> simp

end Blitted.Draws

/-! ### The pictures of one row -/

/-- R172: the bits drawn on display row `r`, the first at column `c`. -/
def rowPicture (r c : Nat) (bits : List Bool) (r' c' : Nat) : Bool :=
  decide (r' = r) && decide (c ≤ c') && bits.getD (c' - c) false

theorem rowPicture_singleton (r c : Nat) (s : Bool) (r' c' : Nat) :
    rowPicture r c [s] r' c' = (decide (r' = r ∧ c' = c) && s) := by
  by_cases hc : c' = c
  · subst hc; simp [rowPicture]
  · by_cases hle : c ≤ c'
    · have hpos : c' - c ≠ 0 := by omega
      simp [rowPicture, hc, hpos]
    · simp [rowPicture, hc, hle]

/-- The first bit falls on column `c` alone, the rest on the columns after it. -/
theorem rowPicture_cons (r c : Nat) (s : Bool) (rest : List Bool) (r' c' : Nat) :
    (rowPicture r c (s :: rest) r' c' = rowPicture r c [s] r' c' ∧ rowPicture r (c + 1) rest r' c' = false) ∨
    (rowPicture r c (s :: rest) r' c' = rowPicture r (c + 1) rest r' c' ∧ rowPicture r c [s] r' c' = false) := by
  obtain hlt | rfl | hgt := lt_trichotomy c' c
  · left; simp [rowPicture, hlt.not_ge, show ¬ c + 1 ≤ c' by omega]
  · left; simp [rowPicture]
  · right
    rw [rowPicture_singleton]
    have hsub : c' - c = (c' - (c + 1)) + 1 := by omega
    simp [rowPicture, hsub, hgt.le, hgt.ne', Nat.succ_le_of_lt hgt]

/-- R33: a lit cell lies on the grid. -/
theorem Display.lt_of_cell {d : Display} {r c : Nat} (h : d.cell r c = true) : r < 32 ∧ c < 64 := by
  by_contra hout
  exact Bool.false_ne_true ((d.cell_out r c hout).symm.trans h)

theorem Blitted.draws_bit (a : Blitted) (r c : Nat) (s : Bool) : Draws (rowPicture r c [s]) a (a.bit r c s) where
  cell {r' c'} hr hc := by
    rw [rowPicture_singleton, Blitted.bit, Display.cell_setCell]
    by_cases hsame : r' = r ∧ c' = c
    · obtain ⟨rfl, rfl⟩ := hsame
      simp [hr, hc]
    · rw [if_neg fun h => hsame ⟨h.1, h.2.1⟩]
      simp [hsame]
  collided := by
    simp only [Blitted.bit, Bool.or_eq_true, Bool.and_eq_true, rowPicture_singleton, decide_eq_true_eq]
    refine or_congr_right ⟨fun ⟨hbit, hlit⟩ => ?hits, ?only⟩
    case hits =>
      obtain ⟨hr, hc⟩ := Display.lt_of_cell hlit
      exact ⟨r, c, hr, hc, ⟨⟨rfl, rfl⟩, hbit⟩, hlit⟩
    case only =>
      rintro ⟨_, _, -, -, ⟨⟨rfl, rfl⟩, hbit⟩, hlit⟩
      exact ⟨hbit, hlit⟩

/-- R173: the bits from column 64 on are skipped, and they would fall on no cell. -/
theorem Blitted.draws_bits (a : Blitted) (r c : Nat) (bits : List Bool) :
    Draws (rowPicture r c bits) a (a.bits r c bits) := by
  induction bits generalizing a c with
  | nil => exact .of_dark fun _ _ => by simp [rowPicture]
  | cons s rest ih =>
    rw [Blitted.bits]
    split
    case isTrue hedge => exact .of_dark fun _ hc => by simp [rowPicture, (hc.trans_le hedge).not_ge]
    case isFalse => exact (a.draws_bit r c s).trans (ih _ _) (rowPicture_cons r c s rest)

/-! ### The picture of the sprite -/

theorem rowPicture_rowBits (x r : Nat) (row : Byte) (c : Nat) :
    rowPicture r x (rowBits row) r c = (decide (x ≤ c) && decide (c < x + 8) && row.getLsbD (7 - (c - x))) := by
  by_cases hc : c - x < 8
  · rw [rowPicture, rowBits_getD row _ hc]
    simp [show c < x + 8 by omega]
  · rw [rowPicture, List.getD_eq_default _ _ (by simpa using hc)]
    simp [show ¬ c < x + 8 by omega]

/-- R172: the first sprite row falls on display row `y` alone, the rest on the rows below it. -/
theorem spriteBit_cons (x y : Nat) (row : Byte) (rest : List Byte) (r c : Nat) :
    (spriteBit x y (row :: rest) r c = rowPicture y x (rowBits row) r c ∧ spriteBit x (y + 1) rest r c = false) ∨
    (spriteBit x y (row :: rest) r c = spriteBit x (y + 1) rest r c ∧ rowPicture y x (rowBits row) r c = false) := by
  obtain hlt | rfl | hgt := lt_trichotomy r y
  · right; simp [spriteBit, rowPicture, hlt.not_ge, hlt.ne, show ¬ y + 1 ≤ r by omega]
  · left; simp [rowPicture_rowBits, spriteBit]
  · right
    have hsub : r - y = (r - (y + 1)) + 1 := by omega
    simp [spriteBit, rowPicture, hsub, hgt.le, hgt.ne', Nat.succ_le_of_lt hgt]

/-- R173: the rows from display row 32 on are skipped, and they would fall on no cell. -/
theorem Blitted.draws_rows (a : Blitted) (x y : Nat) (rows : List Byte) :
    Draws (spriteBit x y rows) a (a.rows x y rows) := by
  induction rows generalizing a y with
  | nil => exact .of_dark fun _ _ => by simp [spriteBit]
  | cons row rest ih =>
    rw [Blitted.rows]
    split
    case isTrue hedge => exact .of_dark fun hr _ => by simp [spriteBit, (hr.trans_le hedge).not_ge]
    case isFalse => exact (a.draws_bits y x (rowBits row)).trans (ih _ _) (spriteBit_cons x y row rest)

/-- R172 to R174: a blit draws the picture of its sprite. -/
theorem blit_draws (d : Display) (x y : Byte) (rows : List Byte) :
    Blitted.Draws (spriteBit x.toNat y.toNat rows) ⟨d, false⟩ (blit d x y rows) :=
  Blitted.draws_rows _ _ _ _

theorem blit_cell (d : Display) (x y : Byte) (rows : List Byte) {r c : Nat} (hr : r < 32) (hc : c < 64) :
    (blit d x y rows).disp.cell r c = (d.cell r c ^^ spriteBit x.toNat y.toNat rows r c) :=
  (blit_draws d x y rows).cell hr hc

theorem blit_collided_iff (d : Display) (x y : Byte) (rows : List Byte) :
    (blit d x y rows).collided = true ↔
      ∃ r c, r < 32 ∧ c < 64 ∧ spriteBit x.toNat y.toNat rows r c = true ∧ d.cell r c = true :=
  (blit_draws d x y rows).collided.trans (or_iff_right Bool.false_ne_true)

/-- R174: VF tells whether a lit cell went dark. -/
theorem blit_collided_iff_erased (d : Display) (x y : Byte) (rows : List Byte) :
    (blit d x y rows).collided = true ↔
      ∃ r c, r < 32 ∧ c < 64 ∧ d.cell r c = true ∧ (blit d x y rows).disp.cell r c = false := by
  rw [blit_collided_iff]
  refine exists₂_congr fun r c => and_congr_right fun hr => and_congr_right fun hc => ?_
  exact ((blit_draws d x y rows).erased_iff hr hc).symm

/-- Settles O46: by induction on the rows and on the bits of a row, whose pictures share no cell. -/
theorem blitIsTheClippedXorOfTheSprite : Obligations.BlitIsTheClippedXorOfTheSprite := fun d x y rows =>
  ⟨fun _ _ => blit_cell d x y rows, blit_collided_iff d x y rows⟩

/-! ### 00E0 -/

section
variable (s : State)

theorem State.writeDisp_frame (d : Display) : { s.writeDisp d with disp := s.disp } = s := rfl

theorem State.writeDisp_writeV_frame (d : Display) (x : Reg) (b : Byte) :
    { (s.writeDisp d).writeV x b with v := s.v, disp := s.disp } = s := rfl

/-- R66: the port of a cleared display holds 32 rows of 64 zeros. -/
theorem State.displayPort_writeDisp_clear : (s.writeDisp Display.clear).displayPort = List.replicate 2048 false := by
  simp [State.displayPort, Display.clear]

end

/-- Settles O45: the row 00E0 fixes X at 0, and the instruction is one write of the cleared display. -/
theorem clearTurnsEveryCellOff : Obligations.ClearTurnsEveryCellOff :=
  ⟨fun op htop _ => decode_topNibble_zero_of_fieldX_ne_zero op htop, fun s =>
    ⟨Laws.FixedBits.cls.1, _, exec_cls s, Display.cell_clear, s.displayPort_writeDisp_clear, s.writeDisp_frame _⟩⟩

/-! ### DXYN -/

section
variable {s : State} {x y : Reg} {n : Fin 16}

theorem exec_drw_of_zero_or_lt (h : n.val = 0 ∨ s.i.toNat + (n.val - 1) < 4096) :
    exec (.drw x y n) s = .next
      ((s.writeDisp (blit s.disp (s.readV x) (s.readV y) (s.mem.readList s.i.toNat n.val)).disp).writeV regF
        (b2u (blit s.disp (s.readV x) (s.readV y) (s.mem.readList s.i.toNat n.val)).collided)) :=
  ((exec_drw_cases s x y n).resolve_right fun ⟨hn, hover, _⟩ => h.elim hn hover.not_gt).2

theorem exec_drw_of_ge (hn : n.val ≠ 0) (h : 4096 ≤ s.i.toNat + (n.val - 1)) :
    exec (.drw x y n) s = .next (s.raise .memoryRange) :=
  ((exec_drw_cases s x y n).resolve_left fun done => done.1.elim hn h.not_gt).2.2

end

/-- R171: the N bytes from I, read at ascending addresses. -/
theorem Memory.readList_eq_map (m : Memory) (a n : Nat) :
    m.readList a n = (List.range n).map (fun k => m.read (a + k)) :=
  List.ext_getElem (by simp) fun k hk _ => by rw [Memory.readList_getElem m a n k hk]; simp

theorem b2u_eq_zero_or_one (c : Bool) : b2u c = 0 ∨ b2u c = 1 := by
  cases c
  case false => exact .inl rfl
  case true => exact .inr rfl

theorem b2u_eq_one_iff (c : Bool) : b2u c = 1 ↔ c = true := by
  cases c <;> decide

/-- Settles O47: the draw is one blit of the bytes read and one write of VF, and the range check comes before both. -/
theorem drawXorsTheSpriteIntoTheDisplay : Obligations.DrawXorsTheSpriteIntoTheDisplay := by
  intro x y n s
  refine ⟨(Laws.FixedBits.drw x y n).1, fun hroom => ?_, exec_drw_of_ge⟩
  refine ⟨_, exec_drw_of_zero_or_lt hroom, fun r c hr hc => ?cell, ?flagBit, ?flag, fun z hz => ?kept,
    s.writeDisp_writeV_frame _ _ _⟩
  case cell => rw [← Memory.readList_eq_map]; exact blit_cell _ _ _ _ hr hc
  case flagBit => rw [State.readV_writeV_same]; exact b2u_eq_zero_or_one _
  case flag => rw [State.readV_writeV_same, b2u_eq_one_iff]; exact blit_collided_iff_erased _ _ _ _
  case kept => rw [State.readV_writeV_ne _ _ hz, State.readV_writeDisp]

end Sys2Proof.Machine
end

section
/-! SUPPORT. The timer and key-wait instructions (46_timer_input.md): the frame of a write of DT, what FX0A and a poll
answer with a key and without one, and what is left of a step once the host's part is put back. -/

namespace Sys2Proof.Machine

/-! ### Frames -/

section
variable (s : State)

theorem State.writeDT_frame (b : Byte) : { s.writeDT b with dt := s.dt } = s := rfl

@[simp] theorem State.readV_endStep (x : Reg) : s.endStep.readV x = s.readV x := by
  simp only [State.readV, State.endStep_v]

/-- R41: with the host's side replaced, nothing of what the host did at the end of the step is left. -/
theorem State.withHostOf_endStep (t : State) : t.endStep.withHostOf s = t.withHostOf s :=
  congrArg (·.withHostOf s) t.endStep_withHostOf

/-- R182: a poll that ends the wait writes one register and ST. -/
theorem State.endStep_writeV_writeStatus_frame (x : Reg) (b : Byte) (st : Status) :
    { ((s.writeV x b).writeStatus st).endStep.withHostOf s with v := s.v, status := s.status } = s := by
  rw [State.withHostOf_endStep]
  rfl

end

/-! ### With a key and without one -/

section
variable {s : State} {x : Reg} {k : HexKey}

theorem exec_waitKey_of_key (hkey : s.key = some k) : exec (.waitKey x) s = .next (s.writeV x (keyByte k)) := by
  obtain ⟨k', hk', e⟩ | ⟨hnone, -⟩ := exec_waitKey_cases s x
  · obtain rfl : k' = k := Option.some.inj (hk'.symm.trans hkey)
    exact e
  · cases hnone.symm.trans hkey

theorem exec_waitKey_of_no_key (hnone : s.key = none) : exec (.waitKey x) s = .next (s.writeStatus (.wait x)) := by
  obtain ⟨_, hkey, -⟩ | ⟨-, e⟩ := exec_waitKey_cases s x
  · cases hnone.symm.trans hkey
  · exact e

theorem State.poll_of_key (hkey : s.key = some k) : s.poll x = (s.writeV x (keyByte k)).writeStatus .run := by
  obtain ⟨k', hk', e⟩ | ⟨hnone, -⟩ := s.poll_cases x
  · obtain rfl : k' = k := Option.some.inj (hk'.symm.trans hkey)
    exact e
  · cases hnone.symm.trans hkey

theorem State.poll_of_no_key (hnone : s.key = none) : s.poll x = s := by
  obtain ⟨_, hkey, -⟩ | ⟨-, e⟩ := s.poll_cases x
  · cases hnone.symm.trans hkey
  · exact e

/-- R100, R182: a step in WAIT(x) is one poll, and no cycle. -/
theorem step_of_wait (hwait : s.status = .wait x) : step s = .next (s.poll x).endStep := by
  rw [step, hwait]
  rfl

theorem step_of_wait_of_key (hwait : s.status = .wait x) (hkey : s.key = some k) :
    step s = .next ((s.writeV x (keyByte k)).writeStatus .run).endStep := by
  rw [step_of_wait hwait, State.poll_of_key hkey]

theorem step_of_wait_of_no_key (hwait : s.status = .wait x) (hnone : s.key = none) : step s = .next s.endStep := by
  rw [step_of_wait hwait, State.poll_of_no_key hnone]

end

/-! ### The statements -/

/-- Settles O52: with a key FX0A and a poll write V[X], and the host's part of a step is all that is added to a poll. -/
theorem keyWaitTakesTheFirstKey : Obligations.KeyWaitTakesTheFirstKey := by
  intro x s
  refine ⟨(Laws.FixedBits.waitKey x).1, fun k hkey => ?taken, exec_waitKey_of_no_key, fun k hwait hkey => ?resumed,
    fun hwait hnone => ⟨_, step_of_wait_of_no_key hwait hnone, s.endStep_withHostOf⟩⟩
  case taken =>
    refine ⟨_, exec_waitKey_of_key hkey, ?key, fun z hz => s.readV_writeV_ne _ hz, s.writeV_frame x _⟩
    case key => rw [State.readV_writeV_same, keyByte_toNat]
  case resumed =>
    refine ⟨_, step_of_wait_of_key hwait hkey, ?key, fun z hz => ?kept, State.endStep_status _,
      s.endStep_writeV_writeStatus_frame x _ _⟩
    case key => rw [State.readV_endStep, State.readV_writeStatus, State.readV_writeV_same, keyByte_toNat]
    case kept => rw [State.readV_endStep, State.readV_writeStatus, s.readV_writeV_ne _ hz]

/-- Settles O51: FX07 is one write of V[X], FX15 one write of DT alone, and FX18 answers the state it is given. -/
theorem timerInstructionsMoveDT : Obligations.TimerInstructionsMoveDT := fun x s =>
  ⟨(Laws.FixedBits.ldFromDT x).1, (Laws.FixedBits.ldDT x).1, (Laws.FixedBits.ldST x).1, _, _,
    exec_ldFromDT s x, exec_ldDT s x, exec_ldST s x, s.readV_writeV_same x _, fun _ hz => s.readV_writeV_ne _ hz,
    s.writeV_frame x _, rfl, s.writeDT_frame _⟩

end Sys2Proof.Machine
end

section
/-! SUPPORT. The fatals of the guard and of the instructions (60_exceptions.md): what a step answers when the guard
fails, and what an instruction can do to ST, which never is PcExhausted. -/

namespace Sys2Proof.Machine

/-! ### The guard -/

section
variable {s : State}

/-- R102, R201: a cycle whose guard fails is the Fatal alone, with no tick, fetch or advance. -/
theorem cycle_of_pc_ge (hpc : 4095 ≤ s.pc.toNat) : cycle s = .next (s.raise .pcExhausted) :=
  if_neg fun hguard => Nat.not_lt.mpr hpc (s.guardPasses_iff.mp hguard)

/-- R100: a step in RUN is one cycle. -/
theorem step_of_run (hrun : s.status = .run) : step s = finish (cycle s) := by
  rw [step, hrun]

theorem step_of_run_of_pc_ge (hrun : s.status = .run) (hpc : 4095 ≤ s.pc.toNat) :
    step s = .next (s.raise .pcExhausted).endStep := by
  rw [step_of_run hrun, cycle_of_pc_ge hpc]
  rfl

end

/-! ### What an instruction does to ST -/

@[simp] theorem State.skipIf_status (s : State) (c : Bool) : (s.skipIf c).status = s.status := by
  rw [State.skipIf_eq, State.writePc_status]

section
variable {i : Instr} {s t : State}

/-- R201 to R204: an instruction leaves ST alone, or starts a key wait, or raises a Fatal of its own; PcExhausted is
none of these ("no instruction raises it directly"). -/
theorem exec_status_cases (h : exec i s = .next t) :
    t.status = s.status ∨ (∃ x, t = s.writeStatus (.wait x)) ∨ ∃ r, t = s.raise r ∧ r ≠ .pcExhausted := by
  cases i with
  | callAddr nnn =>
    obtain ⟨-, e⟩ | ⟨-, e⟩ := exec_callAddr_cases s nnn <;> cases e.symm.trans h
    · exact .inr (.inr ⟨_, rfl, nofun⟩)
    · exact .inl rfl
  | ret =>
    obtain ⟨-, e⟩ | ⟨-, e⟩ := exec_ret_cases s <;> cases e.symm.trans h
    · exact .inr (.inr ⟨_, rfl, nofun⟩)
    · exact .inl rfl
  | addI x =>
    obtain ⟨_, e⟩ | ⟨-, -, e⟩ := exec_addI_cases s x <;> cases e.symm.trans h
    · exact .inl rfl
    · exact .inr (.inr ⟨_, rfl, nofun⟩)
  | ldB x =>
    obtain ⟨-, e⟩ | ⟨-, e⟩ := exec_ldB_cases s x <;> cases e.symm.trans h
    · exact .inl rfl
    · exact .inr (.inr ⟨_, rfl, nofun⟩)
  | storeRegs x =>
    obtain ⟨-, e⟩ | ⟨-, e⟩ := exec_storeRegs_cases s x <;> cases e.symm.trans h
    · exact .inl rfl
    · exact .inr (.inr ⟨_, rfl, nofun⟩)
  | loadRegs x =>
    obtain ⟨-, e⟩ | ⟨-, e⟩ := exec_loadRegs_cases s x <;> cases e.symm.trans h
    · exact .inl rfl
    · exact .inr (.inr ⟨_, rfl, nofun⟩)
  | drw x y n =>
    obtain ⟨-, e⟩ | ⟨-, -, e⟩ := exec_drw_cases s x y n <;> cases e.symm.trans h
    · exact .inl rfl
    · exact .inr (.inr ⟨_, rfl, nofun⟩)
  | waitKey x =>
    obtain ⟨_, -, e⟩ | ⟨-, e⟩ := exec_waitKey_cases s x <;> cases e.symm.trans h
    · exact .inl rfl
    · exact .inr (.inl ⟨x, rfl⟩)
  | seByte | sneByte | seReg | sneReg | skp | sknp => cases h; exact .inl (s.skipIf_status _)
  | _ => cases h; exact .inl rfl

/-- R201: no instruction brings ST to PcExhausted. -/
theorem exec_status_ne_pcExhausted (hs : s.status ≠ .halt .pcExhausted) (h : exec i s = .next t) :
    t.status ≠ .halt .pcExhausted := by
  obtain hkept | ⟨x, rfl⟩ | ⟨r, rfl, hr⟩ := exec_status_cases h
  · rwa [hkept]
  · exact nofun
  · simpa using hr

end

/-! ### The statement -/

/-- Settles O12: above 0x0FFE the cycle is the guard's Fatal, and below it ST is left by an instruction, which never
raises PcExhausted, or by an unrecognized word, which leaves ST alone. -/
theorem guardRaisesPcExhausted : Obligations.GuardRaisesPcExhausted := by
  refine ⟨fun s hrun hpc => ?above, fun s t hrun hpc hstep => ?below⟩
  case above => exact ⟨_, step_of_run_of_pc_ge hrun hpc, s.withHostOf_endStep _⟩
  case below =>
    have hready : s.ready.status ≠ .halt .pcExhausted := by simp [hrun]
    obtain ⟨_, hhalt, -⟩ | ⟨_, hwait, -⟩ | ⟨-, hge, -⟩ | ⟨-, -, _, _, -, hexec, rfl⟩ | ⟨-, -, -, rfl⟩ :=
      step_cases s t hstep
    · cases hrun.symm.trans hhalt
    · cases hrun.symm.trans hwait
    · omega
    · rw [State.endStep_status]
      exact exec_status_ne_pcExhausted hready hexec
    · rwa [State.endStep_status, State.emitDiag_status]

end Sys2Proof.Machine
end

section
/-! SUPPORT. The load port (R233): its answer in each of its three situations, and that a step of a machine that has
not halted ends with the host's part, which closes the port. -/

namespace Sys2Proof.Machine

/-! ### The port's three answers -/

theorem loadFits_iff (offset : Nat) (bytes : List Byte) :
    loadFits offset bytes = true ↔ offset + bytes.length ≤ 4096 := decide_eq_true_iff

section
variable {s : State} {offset : Nat} {bytes : List Byte}

/-- R233, D22: the port is closed, whether or not the bytes would fit. -/
theorem State.load_of_started (hs : s.started = true) : s.load offset bytes = .refused .loadAfterFirstStep :=
  if_pos hs

theorem State.load_of_not_fits (hs : s.started = false) (hover : 4096 < offset + bytes.length) :
    s.load offset bytes = .fault .loadError := by
  obtain ⟨hstarted, -⟩ | ⟨-, hfits, -⟩ | ⟨-, -, e⟩ := s.load_cases offset bytes
  · cases hs.symm.trans hstarted
  · exact absurd ((loadFits_iff _ _).mp hfits) hover.not_ge
  · exact e

theorem State.load_of_fits (hs : s.started = false) (hroom : offset + bytes.length ≤ 4096) :
    s.load offset bytes = .next (s.writeMem (s.mem.writeList offset bytes)) := by
  obtain ⟨hstarted, -⟩ | ⟨-, -, e⟩ | ⟨-, hover, -⟩ := s.load_cases offset bytes
  · cases hs.symm.trans hstarted
  · exact e
  · cases hover.symm.trans ((loadFits_iff _ _).mpr hroom)

end

/-! ### Closing the port -/

/-- R100: outside HALT every phase of a step is followed by the host's part. -/
theorem step_ends_with_endStep {s u : State} (hstep : step s = .next u) (hrunning : ¬ s.Halted) :
    ∃ t : State, u = t.endStep := by
  obtain ⟨r, hhalt, -⟩ | ⟨_, -, e⟩ | ⟨-, -, e⟩ | ⟨-, -, _, _, -, -, e⟩ | ⟨-, -, -, e⟩ := step_cases s u hstep
  · exact absurd ⟨r, hhalt⟩ hrunning
  all_goals exact ⟨_, e⟩

/-! ### The statement -/

/-- Settles O3: a load that fits is one write of its bytes in a row, and the end of a step closes the port. -/
theorem loadPortWritesExactlyItsBytes : Obligations.LoadPortWritesExactlyItsBytes := by
  refine ⟨fun s offset bytes => ⟨State.load_of_started, State.load_of_not_fits, fun hs hroom => ?written⟩,
    fun s u hstep hrunning => ?closed⟩
  case written =>
    exact ⟨_, State.load_of_fits hs hroom, fun k hk => Memory.read_writeList_in bytes s.mem offset k hk,
      fun _ hout => Memory.read_writeList_outside bytes s.mem hout, s.writeMem_frame _⟩
  case closed =>
    obtain ⟨t, rfl⟩ := step_ends_with_endStep hstep hrunning
    exact t.endStep_started

end Sys2Proof.Machine
end

section
/-! SUPPORT. Encoding and decoding undo each other. A word is cut into its top nibble and its fields, one way for each
mask of the table; that says what the row that accepts a word builds from it, and which words no row accepts (R75). -/

namespace Sys2Proof

/-! ### A word put together again from its fields -/

theorem encodeA_fields (op : Word) : encodeA (op.extractLsb' 12 4) (fieldNNN op) = op := by
  rw [encodeA, fieldNNN, BitVec.extractLsb'_append_extractLsb'_eq_extractLsb' (by rfl), BitVec.extractLsb'_eq_self]

theorem encodeXK_fields (op : Word) : encodeXK (op.extractLsb' 12 4) (fieldX op) (fieldNN op) = op := by
  rw [encodeXK, fieldX, fieldNN, BitVec.ofFin_toFin, BitVec.extractLsb'_append_extractLsb'_eq_extractLsb' (by rfl),
    BitVec.extractLsb'_append_extractLsb'_eq_extractLsb' (by rfl), BitVec.extractLsb'_eq_self]

theorem encodeXYN_fields (op : Word) :
    encodeXYN (op.extractLsb' 12 4) (fieldX op) (fieldY op) (fieldN op) = op := by
  simp only [encodeXYN, fieldX, fieldY, fieldN, BitVec.ofFin_toFin]
  rw [BitVec.extractLsb'_append_extractLsb'_eq_extractLsb' (by rfl),
    BitVec.extractLsb'_append_extractLsb'_eq_extractLsb' (by rfl),
    BitVec.extractLsb'_append_extractLsb'_eq_extractLsb' (by rfl), BitVec.extractLsb'_eq_self]

theorem wordOfBytes_highByte_lowByte (op : Word) : wordOfBytes (highByte op) (lowByte op) = op :=
  BitVec.extractLsb'_append_extractLsb'

/-! ### Which words agree with a row's fixed bits -/

theorem append_eq_append_iff {h l : Nat} {a b : BitVec h} {c d : BitVec l} : a ++ c = b ++ d ↔ a = b ∧ c = d := by
  refine ⟨fun e => ⟨?high, ?low⟩, fun ⟨hab, hcd⟩ => by rw [hab, hcd]⟩
  case high => simpa only [BitVec.extractLsb'_append_eq_left] using congrArg (BitVec.extractLsb' l h) e
  case low => simpa only [BitVec.extractLsb'_append_eq_right] using congrArg (BitVec.extractLsb' 0 l) e

section
variable (op : Word) (top : BitVec 4)

theorem and_topMask_eq_iff : op &&& 0xF000 = top ++ (0 : Addr12) ↔ op.extractLsb' 12 4 = top := by
  conv_lhs => rw [← encodeA_fields op]
  rw [Laws.FixedBits.encodeA_fixed, BitVec.append_left_inj]

theorem and_functionMask_eq_iff (nn : Byte) :
    op &&& 0xF0FF = top ++ (0 : BitVec 4) ++ nn ↔ op.extractLsb' 12 4 = top ∧ fieldNN op = nn := by
  conv_lhs => rw [← encodeXK_fields op]
  rw [Laws.FixedBits.encodeXK_function, append_eq_append_iff, BitVec.append_left_inj]

theorem and_lowMask_eq_iff (n : Fin 16) :
    op &&& 0xF00F = top ++ (0 : BitVec 8) ++ (BitVec.ofFin n : BitVec 4) ↔
      op.extractLsb' 12 4 = top ∧ fieldN op = n := by
  conv_lhs => rw [← encodeXYN_fields op]
  rw [Laws.FixedBits.encodeXYN_function, append_eq_append_iff, BitVec.append_left_inj]
  exact and_congr_right fun _ => ⟨congrArg BitVec.toFin, congrArg BitVec.ofFin⟩

end

/-! ### Encode after decode -/

section
variable {op : Word} (top : BitVec 4)

theorem encodeA_of_top (hop : op &&& 0xF000 = top ++ (0 : Addr12)) : encodeA top (fieldNNN op) = op := by
  rw [← (and_topMask_eq_iff op top).mp hop, encodeA_fields]

theorem encodeXK_of_top (hop : op &&& 0xF000 = top ++ (0 : Addr12)) : encodeXK top (fieldX op) (fieldNN op) = op := by
  rw [← (and_topMask_eq_iff op top).mp hop, encodeXK_fields]

theorem encodeXYN_of_top (hop : op &&& 0xF000 = top ++ (0 : Addr12)) :
    encodeXYN top (fieldX op) (fieldY op) (fieldN op) = op := by
  rw [← (and_topMask_eq_iff op top).mp hop, encodeXYN_fields]

theorem encodeXYN_of_low (n : Fin 16) (hop : op &&& 0xF00F = top ++ (0 : BitVec 8) ++ (BitVec.ofFin n : BitVec 4)) :
    encodeXYN top (fieldX op) (fieldY op) n = op := by
  obtain ⟨rfl, rfl⟩ := (and_lowMask_eq_iff op top n).mp hop
  exact encodeXYN_fields op

theorem encodeXK_of_function (nn : Byte) (hop : op &&& 0xF0FF = top ++ (0 : BitVec 4) ++ nn) :
    encodeXK top (fieldX op) nn = op := by
  obtain ⟨rfl, rfl⟩ := (and_functionMask_eq_iff op top nn).mp hop
  exact encodeXK_fields op

end

theorem and_wordMask (op : Word) : op &&& 0xFFFF = op := BitVec.and_allOnes

/-- R71: the instruction that the row builds from a word it accepts encodes to that word. -/
def OpcodeRow.Inverts (r : OpcodeRow) : Prop :=
  ∀ op : Word, op &&& r.maskBits = r.matchBits → encode (r.build op) = op

theorem opcodeRowsA_invert : ∀ r ∈ opcodeRowsA, r.Inverts := by
  simp only [opcodeRowsA, List.forall_mem_cons]
  exact ⟨fun op hop => hop.symm.trans (and_wordMask op), fun op hop => hop.symm.trans (and_wordMask op),
    fun _ => encodeA_of_top 0x1, fun _ => encodeA_of_top 0x2, fun _ => encodeXK_of_top 0x3,
    fun _ => encodeXK_of_top 0x4, fun _ => encodeXYN_of_low 0x5 0, fun _ => encodeXK_of_top 0x6, fun _ => encodeXK_of_top 0x7, nofun⟩

theorem opcodeRowsB_invert : ∀ r ∈ opcodeRowsB, r.Inverts := by
  simp only [opcodeRowsB, List.forall_mem_cons]
  exact ⟨fun _ => encodeXYN_of_low 0x8 0, fun _ => encodeXYN_of_low 0x8 1, fun _ => encodeXYN_of_low 0x8 2,
    fun _ => encodeXYN_of_low 0x8 3, fun _ => encodeXYN_of_low 0x8 4, fun _ => encodeXYN_of_low 0x8 5,
    fun _ => encodeXYN_of_low 0x8 6, fun _ => encodeXYN_of_low 0x8 7, fun _ => encodeXYN_of_low 0x8 14, nofun⟩

theorem opcodeRowsC_invert : ∀ r ∈ opcodeRowsC, r.Inverts := by
  simp only [opcodeRowsC, List.forall_mem_cons]
  exact ⟨fun _ => encodeXYN_of_low 0x9 0, fun _ => encodeA_of_top 0xA, fun _ => encodeA_of_top 0xB,
    fun _ => encodeXK_of_top 0xC, fun _ => encodeXYN_of_top 0xD, fun _ => encodeXK_of_function 0xE 0x9E,
    fun _ => encodeXK_of_function 0xE 0xA1, nofun⟩

theorem opcodeRowsD_invert : ∀ r ∈ opcodeRowsD, r.Inverts := by
  simp only [opcodeRowsD, List.forall_mem_cons]
  exact ⟨fun _ => encodeXK_of_function 0xF 0x07, fun _ => encodeXK_of_function 0xF 0x0A,
    fun _ => encodeXK_of_function 0xF 0x15, fun _ => encodeXK_of_function 0xF 0x18,
    fun _ => encodeXK_of_function 0xF 0x1E, fun _ => encodeXK_of_function 0xF 0x29,
    fun _ => encodeXK_of_function 0xF 0x33, fun _ => encodeXK_of_function 0xF 0x55,
    fun _ => encodeXK_of_function 0xF 0x65, nofun⟩

theorem opcodeTable_inverts : ∀ r ∈ opcodeTable, r.Inverts := by
  simp only [opcodeTable, List.forall_mem_append]
  exact ⟨⟨⟨opcodeRowsA_invert, opcodeRowsB_invert⟩, opcodeRowsC_invert⟩, opcodeRowsD_invert⟩

/-- Settles O7: the word is put together again from the bits its row fixes and the fields the row reads. -/
theorem encodeOfDecodeIsTheWord : Obligations.EncodeOfDecodeIsTheWord := by
  intro op i hi
  obtain ⟨r, hmem, hop, hdecode⟩ | ⟨-, hdecode⟩ := decode_cases op
  · cases hdecode.symm.trans hi
    exact opcodeTable_inverts r hmem op hop
  · cases hdecode.symm.trans hi

/-! ### Decode after encode -/

theorem decode_encode_of_row {i : Instr} {r : OpcodeRow} (k : Nat) (hrow : opcodeTable[k]? = some r)
    (hfixed : encode i &&& r.maskBits = r.matchBits) (hbuild : r.build (encode i) = i) : decode (encode i) = .ok i := by
  rw [decode_of_row_accepts (List.mem_of_getElem? hrow) hfixed, hbuild]

theorem congr_fields_encodeXK {α : Type} (f : Reg → Byte → α) (top : BitVec 4) (x : Reg) (nn : Byte) :
    f (fieldX (encodeXK top x nn)) (fieldNN (encodeXK top x nn)) = f x nn := by
  rw [fieldX_encodeXK, fieldNN_encodeXK]

theorem congr_fields_encodeXYN {α : Type} (f : Reg → Reg → α) (top : BitVec 4) (x y : Reg) (n : Fin 16) :
    f (fieldX (encodeXYN top x y n)) (fieldY (encodeXYN top x y n)) = f x y := by
  rw [fieldX_encodeXYN, fieldY_encodeXYN]

open Laws in
/-- R74: the number in each case is the place of the instruction's row in the table, counted from 0. -/
theorem decode_encode (i : Instr) : decode (encode i) = .ok i := by
  cases i with
  | cls => rfl
  | ret => rfl
  | jpAddr nnn => exact decode_encode_of_row 2 rfl (FixedBits.jpAddr nnn).1 (congrArg _ (fieldNNN_encodeA _ nnn))
  | callAddr nnn => exact decode_encode_of_row 3 rfl (FixedBits.callAddr nnn).1 (congrArg _ (fieldNNN_encodeA _ nnn))
  | seByte x nn => exact decode_encode_of_row 4 rfl (FixedBits.seByte x nn).1 (congr_fields_encodeXK _ _ x nn)
  | sneByte x nn => exact decode_encode_of_row 5 rfl (FixedBits.sneByte x nn).1 (congr_fields_encodeXK _ _ x nn)
  | seReg x y => exact decode_encode_of_row 6 rfl (FixedBits.seReg x y).1 (congr_fields_encodeXYN _ _ x y _)
  | ldByte x nn => exact decode_encode_of_row 7 rfl (FixedBits.ldByte x nn).1 (congr_fields_encodeXK _ _ x nn)
  | addByte x nn => exact decode_encode_of_row 8 rfl (FixedBits.addByte x nn).1 (congr_fields_encodeXK _ _ x nn)
  | ldReg x y => exact decode_encode_of_row 9 rfl (FixedBits.ldReg x y).1 (congr_fields_encodeXYN _ _ x y _)
  | orReg x y => exact decode_encode_of_row 10 rfl (FixedBits.orReg x y).1 (congr_fields_encodeXYN _ _ x y _)
  | andReg x y => exact decode_encode_of_row 11 rfl (FixedBits.andReg x y).1 (congr_fields_encodeXYN _ _ x y _)
  | xorReg x y => exact decode_encode_of_row 12 rfl (FixedBits.xorReg x y).1 (congr_fields_encodeXYN _ _ x y _)
  | addReg x y => exact decode_encode_of_row 13 rfl (FixedBits.addReg x y).1 (congr_fields_encodeXYN _ _ x y _)
  | subReg x y => exact decode_encode_of_row 14 rfl (FixedBits.subReg x y).1 (congr_fields_encodeXYN _ _ x y _)
  | shrReg x y => exact decode_encode_of_row 15 rfl (FixedBits.shrReg x y).1 (congr_fields_encodeXYN _ _ x y _)
  | subnReg x y => exact decode_encode_of_row 16 rfl (FixedBits.subnReg x y).1 (congr_fields_encodeXYN _ _ x y _)
  | shlReg x y => exact decode_encode_of_row 17 rfl (FixedBits.shlReg x y).1 (congr_fields_encodeXYN _ _ x y _)
  | sneReg x y => exact decode_encode_of_row 18 rfl (FixedBits.sneReg x y).1 (congr_fields_encodeXYN _ _ x y _)
  | ldI nnn => exact decode_encode_of_row 19 rfl (FixedBits.ldI nnn).1 (congrArg _ (fieldNNN_encodeA _ nnn))
  | jpV0 nnn => exact decode_encode_of_row 20 rfl (FixedBits.jpV0 nnn).1 (congrArg _ (fieldNNN_encodeA _ nnn))
  | rnd x nn => exact decode_encode_of_row 21 rfl (FixedBits.rnd x nn).1 (congr_fields_encodeXK _ _ x nn)
  | drw x y n =>
    refine decode_encode_of_row 22 rfl (FixedBits.drw x y n).1 ?_
    exact (congrArg _ (fieldN_encodeXYN _ x y n)).trans (congr_fields_encodeXYN (Instr.drw · · n) _ x y n)
  | skp x => exact decode_encode_of_row 23 rfl (FixedBits.skp x).1 (congrArg _ (fieldX_encodeXK _ x _))
  | sknp x => exact decode_encode_of_row 24 rfl (FixedBits.sknp x).1 (congrArg _ (fieldX_encodeXK _ x _))
  | ldFromDT x => exact decode_encode_of_row 25 rfl (FixedBits.ldFromDT x).1 (congrArg _ (fieldX_encodeXK _ x _))
  | waitKey x => exact decode_encode_of_row 26 rfl (FixedBits.waitKey x).1 (congrArg _ (fieldX_encodeXK _ x _))
  | ldDT x => exact decode_encode_of_row 27 rfl (FixedBits.ldDT x).1 (congrArg _ (fieldX_encodeXK _ x _))
  | ldST x => exact decode_encode_of_row 28 rfl (FixedBits.ldST x).1 (congrArg _ (fieldX_encodeXK _ x _))
  | addI x => exact decode_encode_of_row 29 rfl (FixedBits.addI x).1 (congrArg _ (fieldX_encodeXK _ x _))
  | ldF x => exact decode_encode_of_row 30 rfl (FixedBits.ldF x).1 (congrArg _ (fieldX_encodeXK _ x _))
  | ldB x => exact decode_encode_of_row 31 rfl (FixedBits.ldB x).1 (congrArg _ (fieldX_encodeXK _ x _))
  | storeRegs x => exact decode_encode_of_row 32 rfl (FixedBits.storeRegs x).1 (congrArg _ (fieldX_encodeXK _ x _))
  | loadRegs x => exact decode_encode_of_row 33 rfl (FixedBits.loadRegs x).1 (congrArg _ (fieldX_encodeXK _ x _))

/-- Settles O6: the word is in its instruction's row, whose fields are the operands it was encoded from. -/
theorem decodeOfEncodeIsTheInstruction : Obligations.DecodeOfEncodeIsTheInstruction := by
  intro i _
  refine ⟨decode_encode i, ?_⟩
  rw [encodeBytes, decodeBytes, wordOfBytes_highByte_lowByte, decode_encode]

/-! ### The words that no row accepts -/

theorem decode_eq_unrecognized_iff_no_row_accepts (op : Word) :
    decode op = .error (.unrecognized op) ↔ ∀ r ∈ opcodeTable, op &&& r.maskBits ≠ r.matchBits := by
  refine ⟨fun hdecode r hmem hop => ?_, decode_of_no_row_accepts⟩
  cases hdecode.symm.trans (decode_of_row_accepts hmem hop)

/-- R76: the words of the rows that fix every nibble. -/
def fixedWords : List Word := [0x00E0, 0x00EE]

/-- R76: the top nibbles of the rows that fix nothing else. -/
def fixedTops : List (BitVec 4) := [0x1, 0x2, 0x3, 0x4, 0x6, 0x7, 0xA, 0xB, 0xC, 0xD]

/-- R76: the top and low nibbles of the rows that fix these two. -/
def fixedLows : List (BitVec 4 × Fin 16) :=
  [(5, 0), (8, 0), (8, 1), (8, 2), (8, 3), (8, 4), (8, 5), (8, 6), (8, 7), (8, 14), (9, 0)]

/-- R76: the top nibbles and function bytes of the rows that fix these two. -/
def fixedFunctions : List (BitVec 4 × Byte) :=
  [(0xE, 0x9E), (0xE, 0xA1), (0xF, 0x07), (0xF, 0x0A), (0xF, 0x15), (0xF, 0x18), (0xF, 0x1E), (0xF, 0x29),
   (0xF, 0x33), (0xF, 0x55), (0xF, 0x65)]

/-- The table of R76, sorted by mask. -/
theorem opcodeTable_perm_by_mask :
    (opcodeTable.map fun r => (r.maskBits, r.matchBits)).Perm
      (fixedWords.map (fun w => (0xFFFF, w)) ++ fixedTops.map (fun t => (0xF000, t ++ (0 : Addr12))) ++
        fixedLows.map (fun p => (0xF00F, p.1 ++ (0 : BitVec 8) ++ (BitVec.ofFin p.2 : BitVec 4))) ++
        fixedFunctions.map (fun p => (0xF0FF, p.1 ++ (0 : BitVec 4) ++ p.2))) := by
  decide

/-- R75: 00E0 and 00EE are words of top nibble 0, so each condition concerns one top nibble. -/
theorem ne_fixedWords_iff (op : Word) :
    (∀ w ∈ fixedWords, op ≠ w) ↔ (op.extractLsb' 12 4 = 0 → op ≠ 0x00E0 ∧ op ≠ 0x00EE) := by
  rw [fixedWords, List.forall_mem_cons, List.forall_mem_singleton]
  refine ⟨fun h _ => h, fun h => ⟨fun e => ?_, fun e => ?_⟩⟩
  · exact (h (by rw [e]; rfl)).1 e
  · exact (h (by rw [e]; rfl)).2 e

theorem decode_eq_unrecognized_iff (op : Word) :
    decode op = .error (.unrecognized op) ↔
      (op.extractLsb' 12 4 = 0 → op ≠ 0x00E0 ∧ op ≠ 0x00EE) ∧ (∀ t ∈ fixedTops, op.extractLsb' 12 4 ≠ t) ∧
      (∀ p ∈ fixedLows, ¬ (op.extractLsb' 12 4 = p.1 ∧ fieldN op = p.2)) ∧
      (∀ p ∈ fixedFunctions, ¬ (op.extractLsb' 12 4 = p.1 ∧ fieldNN op = p.2)) := by
  have bits : (∀ r ∈ opcodeTable, op &&& r.maskBits ≠ r.matchBits) ↔
      ∀ b ∈ opcodeTable.map (fun r => (r.maskBits, r.matchBits)), op &&& b.1 ≠ b.2 := by
    rw [List.forall_mem_map]
  rw [decode_eq_unrecognized_iff_no_row_accepts, bits, ← ne_fixedWords_iff]
  simp only [opcodeTable_perm_by_mask.mem_iff, List.forall_mem_append, List.forall_mem_map, ne_eq, and_wordMask,
    and_topMask_eq_iff, and_lowMask_eq_iff, and_functionMask_eq_iff, and_assoc]

theorem topNibble_cases : ∀ top : BitVec 4,
    top ∈ fixedTops ∨ top = 8 ∨ top = 0 ∨ top = 5 ∨ top = 9 ∨ top = 14 ∨ top = 15 := by
  decide

theorem fixedTops_toNat : ∀ top ∈ fixedTops, top ≠ 0 ∧ top.toNat ∉ [5, 8, 9, 14, 15] := by
  decide

theorem topNibble_eq_zero_iff (op : Word) : op.extractLsb' 12 4 = 0 ↔ op.toNat ≤ 0x0FFF := by
  rw [← BitVec.toNat_inj, topNibble_toNat]
  change op.toNat / 4096 = 0 ↔ op.toNat ≤ 0x0FFF
  omega

/-- R75: 8XYn has a row for nine values of n, and none for the other seven. -/
theorem lowNibble_of_no_row_of_8XYN (n : Fin 16) :
    (∀ p ∈ fixedLows, ¬ (8 = p.1 ∧ n = p.2)) ↔ n ∈ [8, 9, 10, 11, 12, 13, 15] := by
  have values : ∀ m : Fin 16, m ∉ [0, 1, 2, 3, 4, 5, 6, 7, 14] ↔ m ∈ [8, 9, 10, 11, 12, 13, 15] := by decide
  simpa [fixedLows] using values n

/-- Settles O9: for each top nibble the table has rows for every word, or for the values that R75 leaves out. -/
theorem unrecognizedWordsAreExactlyThese : Obligations.UnrecognizedWordsAreExactlyThese := by
  intro op
  rw [decode_eq_unrecognized_iff, ← topNibble_toNat, ← topNibble_eq_zero_iff]
  obtain hmem | h | h | h | h | h | h := topNibble_cases (op.extractLsb' 12 4)
  · obtain ⟨hzero, hnot⟩ := fixedTops_toNat _ hmem
    refine iff_of_false (fun ⟨_, htops, _⟩ => htops _ hmem rfl) ?_
    rintro (⟨h, -⟩ | ⟨h, -⟩ | ⟨h, -⟩ | ⟨h, -⟩ | ⟨h, -⟩ | ⟨h, -⟩)
    · exact hzero h
    all_goals exact hnot (by rw [h]; decide)
  · rw [h, lowNibble_of_no_row_of_8XYN]
    simp [fixedTops, fixedFunctions]
  all_goals rw [h]; simp [fixedTops, fixedLows, fixedFunctions]

/-- Settles O5: each word is the encoding of the instruction it is said to decode to. -/
theorem wordsOfTheTableDecode : Obligations.WordsOfTheTableDecode :=
  ⟨decode_encode .cls, decode_encode (.callAddr 0xABC), decode_encode (.seByte 15 0x42), decode_encode (.subnReg 1 15),
    decode_encode (.drw 1 2 5), decode_encode (.sknp 7), decode_encode (.waitKey 12), decode_encode (.loadRegs 9)⟩

end Sys2Proof
end

section
/-! SUPPORT. What an instruction does to the state, said once: one constructor of `Effect` for each kind of write that
`exec` makes, with the instructions that make it. The rules about all 34 instructions are read off it. -/

namespace Sys2Proof.Machine

/-! ### The instructions of each kind of write -/

/-- R22: the instructions that name `x` as the one register they write. -/
def NamesDestination (i : Instr) (x : Reg) : Prop :=
  (∃ nn, i = .ldByte x nn ∨ i = .addByte x nn ∨ i = .rnd x nn) ∨
  (∃ y, i = .ldReg x y ∨ i = .orReg x y ∨ i = .andReg x y ∨ i = .xorReg x y) ∨ i = .ldFromDT x ∨ i = .waitKey x

/-- R148: the instructions that write a result and then VF. -/
def WritesFlagged (i : Instr) : Prop :=
  ∃ x y, i = .addReg x y ∨ i = .subReg x y ∨ i = .shrReg x y ∨ i = .subnReg x y ∨ i = .shlReg x y

/-- R23: the instructions that write I. -/
def WritesIndex (i : Instr) : Prop := (∃ nnn, i = .ldI nnn) ∨ (∃ x, i = .addI x) ∨ ∃ x, i = .ldF x

/-- R130: the six skips. -/
def IsSkip (i : Instr) : Prop :=
  (∃ x nn, i = .seByte x nn ∨ i = .sneByte x nn) ∨ (∃ x y, i = .seReg x y ∨ i = .sneReg x y) ∨
  ∃ x, i = .skp x ∨ i = .sknp x

/-- R51: the instructions that write memory. -/
def WritesMemory (i : Instr) : Prop := (∃ x, i = .ldB x) ∨ ∃ x, i = .storeRegs x

/-- R202 to R204: the instruction and the condition of each Fatal. -/
def FatalCause (s : State) (i : Instr) (r : HaltReason) : Prop :=
  (r = .stackOverflow ∧ s.sp = Config.stackDepth ∧ ∃ nnn, i = .callAddr nnn) ∨
  (r = .stackUnderflow ∧ s.sp = 0 ∧ i = .ret) ∨
  (r = .memoryRange ∧
    ((∃ x, i = .ldB x ∧ 4096 ≤ s.i.toNat + 2) ∨ (∃ x, i = .storeRegs x ∧ 4096 ≤ s.i.toNat + x.val) ∨
     (∃ x, i = .loadRegs x ∧ 4096 ≤ s.i.toNat + x.val) ∨
     (∃ x y n, i = .drw x y n ∧ 0 < n.val ∧ 4096 ≤ s.i.toNat + (n.val - 1)))) ∨
  (r = .indexOverflow ∧ Config.iOverflow = .fault ∧ ∃ x, i = .addI x ∧ 0xFFFF < s.i.toNat + (s.readV x).toNat)

/-! ### The effect of an instruction -/

/-- R106: all that `exec` can make of the state `s`. -/
inductive Effect (s : State) : Instr → State → Prop where
  | nothing (x : Reg) : Effect s (.ldST x) s
  | fatal {i : Instr} {r : HaltReason} (cause : FatalCause s i r) : Effect s i (s.raise r)
  | register {i : Instr} {x : Reg} (b : Byte) (names : NamesDestination i x) : Effect s i (s.writeV x b)
  | flagged {i : Instr} (x : Reg) (f : Flagged) (flags : WritesFlagged i) : Effect s i (s.writeFlagged x f)
  | registers (x : Reg) : Effect s (.loadRegs x) (s.loadV (s.mem.readList s.i.toNat (x.val + 1)))
  | index {i : Instr} (w : Word) (writes : WritesIndex i) : Effect s i (s.writeI w)
  | skip {i : Instr} (c : Bool) (skips : IsSkip i) : Effect s i (s.writePc (if c then s.pc + 2 else s.pc))
  | jump (nnn : Addr12) : Effect s (.jpAddr nnn) (s.writePc (addrOperand nnn))
  | offsetJump (nnn : Addr12) : Effect s (.jpV0 nnn) (s.writePc (addrOperand nnn + zext16 (s.readV 0)))
  | call (nnn : Addr12) (room : s.sp ≠ Config.stackDepth) : Effect s (.callAddr nnn)
      ((s.writeStack (setEntry 0 s.stack s.sp s.pc) (s.sp + 1)).writePc (addrOperand nnn))
  | ret (used : s.sp ≠ 0) : Effect s .ret
      ((s.writeStack s.stack (s.sp - 1)).writePc (s.stackEntry (s.sp - 1)))
  | clear : Effect s .cls (s.writeDisp Display.clear)
  | draw (x y : Reg) (n : Fin 16) (d : Display) (b : Byte) : Effect s (.drw x y n) ((s.writeDisp d).writeV regF b)
  | store {i : Instr} (bs : List Byte) (room : s.i.toNat + bs.length ≤ 4096) (writes : WritesMemory i) :
      Effect s i (s.writeMem (s.mem.writeList s.i.toNat bs))
  | timer (x : Reg) : Effect s (.ldDT x) (s.writeDT (s.readV x))
  | wait (x : Reg) : Effect s (.waitKey x) (s.writeStatus (.wait x))

section
variable {i : Instr} {s t : State}

theorem exec_effect (h : exec i s = .next t) : Effect s i t := by
  cases i with
  | cls => cases h; exact .clear
  | ret =>
    obtain ⟨hempty, e⟩ | ⟨hused, e⟩ := exec_ret_cases s <;> cases e.symm.trans h
    · exact .fatal (.inr (.inl ⟨rfl, hempty, rfl⟩))
    · exact .ret hused
  | jpAddr nnn => cases h; exact .jump nnn
  | callAddr nnn =>
    obtain ⟨hfull, e⟩ | ⟨hroom, e⟩ := exec_callAddr_cases s nnn <;> cases e.symm.trans h
    · exact .fatal (.inl ⟨rfl, hfull, nnn, rfl⟩)
    · exact .call nnn hroom
  | seByte x nn => cases (exec_seByte s x nn).symm.trans h; exact .skip _ (.inl ⟨x, nn, .inl rfl⟩)
  | sneByte x nn => cases (exec_sneByte s x nn).symm.trans h; exact .skip _ (.inl ⟨x, nn, .inr rfl⟩)
  | seReg x y => cases (exec_seReg s x y).symm.trans h; exact .skip _ (.inr (.inl ⟨x, y, .inl rfl⟩))
  | sneReg x y => cases (exec_sneReg s x y).symm.trans h; exact .skip _ (.inr (.inl ⟨x, y, .inr rfl⟩))
  | skp x => cases (exec_skp s x).symm.trans h; exact .skip _ (.inr (.inr ⟨x, .inl rfl⟩))
  | sknp x => cases (exec_sknp s x).symm.trans h; exact .skip _ (.inr (.inr ⟨x, .inr rfl⟩))
  | ldByte x nn => cases h; exact .register _ (.inl ⟨nn, .inl rfl⟩)
  | addByte x nn => cases h; exact .register _ (.inl ⟨nn, .inr (.inl rfl)⟩)
  | rnd x nn => cases h; exact .register _ (.inl ⟨nn, .inr (.inr rfl)⟩)
  | ldReg x y => cases h; exact .register _ (.inr (.inl ⟨y, .inl rfl⟩))
  | orReg x y => cases h; exact .register _ (.inr (.inl ⟨y, .inr (.inl rfl)⟩))
  | andReg x y => cases h; exact .register _ (.inr (.inl ⟨y, .inr (.inr (.inl rfl))⟩))
  | xorReg x y => cases h; exact .register _ (.inr (.inl ⟨y, .inr (.inr (.inr rfl))⟩))
  | ldFromDT x => cases h; exact .register _ (.inr (.inr (.inl rfl)))
  | waitKey x =>
    obtain ⟨k, -, e⟩ | ⟨-, e⟩ := exec_waitKey_cases s x <;> cases e.symm.trans h
    · exact .register _ (.inr (.inr (.inr rfl)))
    · exact .wait x
  | addReg x y => cases h; exact .flagged x _ ⟨x, y, .inl rfl⟩
  | subReg x y => cases h; exact .flagged x _ ⟨x, y, .inr (.inl rfl)⟩
  | shrReg x y => cases h; exact .flagged x _ ⟨x, y, .inr (.inr (.inl rfl))⟩
  | subnReg x y => cases h; exact .flagged x _ ⟨x, y, .inr (.inr (.inr (.inl rfl)))⟩
  | shlReg x y => cases h; exact .flagged x _ ⟨x, y, .inr (.inr (.inr (.inr rfl)))⟩
  | ldI nnn => cases h; exact .index _ (.inl ⟨nnn, rfl⟩)
  | addI x =>
    obtain ⟨w, e⟩ | ⟨hfault, hover, e⟩ := exec_addI_cases s x <;> cases e.symm.trans h
    · exact .index w (.inr (.inl ⟨x, rfl⟩))
    · exact .fatal (.inr (.inr (.inr ⟨rfl, hfault, x, rfl, hover⟩)))
  | ldF x => cases h; exact .index _ (.inr (.inr ⟨x, rfl⟩))
  | jpV0 nnn => cases h; exact .offsetJump nnn
  | drw x y n =>
    obtain ⟨-, e⟩ | ⟨hn, hover, e⟩ := exec_drw_cases s x y n <;> cases e.symm.trans h
    · exact .draw x y n _ _
    · exact .fatal (.inr (.inr (.inl ⟨rfl, .inr (.inr (.inr ⟨x, y, n, rfl, Nat.pos_of_ne_zero hn, hover⟩))⟩)))
  | ldDT x => cases h; exact .timer x
  | ldST x => cases h; exact .nothing x
  | ldB x =>
    obtain ⟨hroom, e⟩ | ⟨hover, e⟩ := exec_ldB_cases s x <;> cases e.symm.trans h
    · exact .store _ hroom (.inl ⟨x, rfl⟩)
    · exact .fatal (.inr (.inr (.inl ⟨rfl, .inl ⟨x, rfl, hover⟩⟩)))
  | storeRegs x =>
    obtain ⟨hroom, e⟩ | ⟨hover, e⟩ := exec_storeRegs_cases s x <;> cases e.symm.trans h
    · exact .store _ (by rw [State.firstRegs_length]; exact hroom) (.inr ⟨x, rfl⟩)
    · exact .fatal (.inr (.inr (.inl ⟨rfl, .inr (.inl ⟨x, rfl, hover⟩)⟩)))
  | loadRegs x =>
    obtain ⟨-, e⟩ | ⟨hover, e⟩ := exec_loadRegs_cases s x <;> cases e.symm.trans h
    · exact .registers x
    · exact .fatal (.inr (.inr (.inl ⟨rfl, .inr (.inr (.inl ⟨x, rfl, hover⟩))⟩)))

/-- R106: every instruction answers a next state. -/
theorem exec_total (i : Instr) (s : State) : ∃ t, exec i s = .next t := by
  cases i with
  | loadRegs x => obtain ⟨-, e⟩ | ⟨-, e⟩ := exec_loadRegs_cases s x <;> exact ⟨_, e⟩
  | drw x y n => obtain ⟨-, e⟩ | ⟨-, -, e⟩ := exec_drw_cases s x y n <;> exact ⟨_, e⟩
  | _ => exact ⟨_, rfl⟩

end

/-! ### The rules about all instructions -/

/-- Settles O14: a Fatal is one of the effects, and it is the only one that leaves ST in HALT. -/
theorem fatalsArePreciseAndHaveOneCause : Obligations.FatalsArePreciseAndHaveOneCause := by
  intro i s t r hrun h hhalt
  cases exec_effect h with
  | fatal cause => cases hhalt; exact ⟨rfl, cause⟩
  | wait => cases hhalt
  | _ => cases hrun.symm.trans hhalt

/-- R165: FX65 leaves the registers above X alone. -/
theorem State.readV_loadV_readList_of_gt (s : State) (a : Nat) {x y : Reg} (h : x < y) :
    (s.loadV (s.mem.readList a (x.val + 1))).readV y = s.readV y := by
  rw [State.readV_loadV_readList, if_neg (Nat.not_lt.mpr (Nat.succ_le_of_lt h))]

/-- Settles O53: VF changes by a write of one register, which then is VF, by a flag, by a draw or by a load up to VF. -/
theorem onlyFlagInstructionsOrDestinationsChangeVF : Obligations.OnlyFlagInstructionsOrDestinationsChangeVF := by
  intro i s t h hne
  cases exec_effect h with
  | @register _ x b names =>
    have hx : x = 15 := by
      by_contra hx
      exact hne (s.readV_writeV_ne b (Ne.symm hx))
    subst hx
    obtain hbyte | hreg | hdt | hkey := names
    · exact .inr (.inr (.inl hbyte))
    · exact .inr (.inr (.inr (.inl hreg)))
    · exact .inr (.inr (.inr (.inr (.inl hdt))))
    · exact .inr (.inr (.inr (.inr (.inr (.inl hkey)))))
  | flagged _ _ flags => exact .inl flags
  | draw x y n => exact .inr (.inl ⟨x, y, n, rfl⟩)
  | registers x =>
    obtain rfl | hx := (Fin.le_last x).eq_or_lt
    · exact .inr (.inr (.inr (.inr (.inr (.inr rfl)))))
    · exact absurd (s.readV_loadV_readList_of_gt _ hx) hne
  | _ => exact absurd rfl hne

/-- Settles O54: one effect alone writes I. -/
theorem onlyThreeInstructionsChangeI : Obligations.OnlyThreeInstructionsChangeI := by
  intro i s t h hne
  cases exec_effect h with
  | index _ writes => exact writes
  | _ => exact absurd rfl hne

/-- Settles O55: four effects write pc, and a skip whose condition fails writes back the pc it had. -/
theorem onlyControlTransfersChangeThePc : Obligations.OnlyControlTransfersChangeThePc := by
  intro i s t h hne
  cases exec_effect h with
  | skip c skips =>
    cases c with
    | true => exact .inl ⟨rfl, skips⟩
    | false => exact absurd rfl hne
  | jump nnn => exact .inr (.inl ⟨nnn, .inl rfl, addrOperand_toNat nnn⟩)
  | call nnn => exact .inr (.inl ⟨nnn, .inr rfl, addrOperand_toNat nnn⟩)
  | offsetJump nnn => exact .inr (.inr (.inl ⟨nnn, rfl, addrOperand_add_zext16_toNat nnn _⟩))
  | ret => exact .inr (.inr (.inr ⟨rfl, rfl⟩))
  | _ => exact absurd rfl hne

/-- Settles O56: the effects of a call and of a return alone write the stack. -/
theorem onlyCallAndReturnTouchTheStack : Obligations.OnlyCallAndReturnTouchTheStack := by
  intro i s t h
  cases exec_effect h with
  | call nnn => exact .inr (.inr ⟨nnn, rfl, rfl⟩)
  | ret used => exact .inr (.inl ⟨rfl, Nat.sub_one_add_one used, rfl⟩)
  | _ => exact .inl ⟨rfl, rfl⟩

/-- Settles O57: the effects of 00E0 and DXYN alone write the display. -/
theorem onlyClearAndDrawChangeTheDisplay : Obligations.OnlyClearAndDrawChangeTheDisplay := by
  intro i s t h hne
  cases exec_effect h with
  | clear => exact .inl rfl
  | draw x y n => exact .inr ⟨x, y, n, rfl⟩
  | _ => exact absurd rfl hne

/-- Settles O58: one effect alone writes memory. -/
theorem onlyTwoInstructionsChangeMemory : Obligations.OnlyTwoInstructionsChangeMemory := by
  intro i s t a h hne
  cases exec_effect h with
  | store _ _ writes => exact writes
  | _ => exact absurd rfl hne

/-- Settles O59: no effect writes a port, DT_LAST or the diagnostics, and one writes DT. -/
theorem noInstructionTouchesTheHostOrTheTimestamp : Obligations.NoInstructionTouchesTheHostOrTheTimestamp := by
  intro i s t h
  cases exec_effect h with
  | timer x => exact ⟨rfl, rfl, rfl, .inr ⟨x, rfl⟩⟩
  | _ => exact ⟨rfl, rfl, rfl, .inl rfl⟩

/-! ### The rand and key ports -/

section
variable {i : Instr} {s t : State}

theorem State.setPorts_addToI (s : State) (inp : HostInput) (ov : Config.IOverflow) (b : Byte) :
    (s.setPorts inp).addToI ov b = (s.addToI ov b).setPorts inp := by
  by_cases h : s.i.toNat + b.toNat ≤ 0xFFFF
  · rw [s.addToI_of_le ov h, State.addToI_of_le (s.setPorts inp) ov h]
    rfl
  · cases ov with
    | wrap16 => rw [State.addToI_wrap16, State.addToI_wrap16]; rfl
    | fault =>
      rw [s.addToI_fault_of_gt (not_le.mp h), State.addToI_fault_of_gt (s.setPorts inp) (not_le.mp h)]
      rfl

theorem State.keyIs_setPorts (s : State) {inp : HostInput} (hkey : inp.key = s.key) (x : Reg) :
    (s.setPorts inp).keyIs x = s.keyIs x := by
  rw [State.keyIs, State.keyIs, State.sampleKey, State.setPorts_key, hkey, State.sampleKey]
  rfl

/-- R40: an instruction that does not see what was changed on the ports does the same and leaves them as they are. -/
theorem exec_setPorts {inp : HostInput} (hrand : inp.rand = s.rand ∨ ∀ x nn, i ≠ .rnd x nn)
    (hkey : inp.key = s.key ∨ ∀ x, i ≠ .skp x ∧ i ≠ .sknp x ∧ i ≠ .waitKey x) (h : exec i s = .next t) :
    exec i (s.setPorts inp) = .next (t.setPorts inp) := by
  cases i with
  | rnd x nn =>
    obtain hsame | hother := hrand
    · cases h
      rw [exec_rnd, State.setPorts_rand, hsame]
      rfl
    · exact absurd rfl (hother x nn)
  | skp x =>
    obtain hsame | hother := hkey
    · cases (exec_skp s x).symm.trans h
      rw [exec_skp, s.keyIs_setPorts hsame]
      rfl
    · exact absurd rfl (hother x).1
  | sknp x =>
    obtain hsame | hother := hkey
    · cases (exec_sknp s x).symm.trans h
      rw [exec_sknp, s.keyIs_setPorts hsame]
      rfl
    · exact absurd rfl (hother x).2.1
  | waitKey x =>
    obtain hsame | hother := hkey
    · obtain ⟨k, hk, e⟩ | ⟨hnone, e⟩ := exec_waitKey_cases s x <;> cases e.symm.trans h
      · exact exec_waitKey_of_key (hsame.trans hk)
      · exact exec_waitKey_of_no_key (hsame.trans hnone)
    · exact absurd rfl (hother x).2.2
  | seByte x nn => cases (exec_seByte s x nn).symm.trans h; exact exec_seByte _ x nn
  | sneByte x nn => cases (exec_sneByte s x nn).symm.trans h; exact exec_sneByte _ x nn
  | seReg x y => cases (exec_seReg s x y).symm.trans h; exact exec_seReg _ x y
  | sneReg x y => cases (exec_sneReg s x y).symm.trans h; exact exec_sneReg _ x y
  | callAddr nnn =>
    obtain ⟨hfull, e⟩ | ⟨hroom, e⟩ := exec_callAddr_cases s nnn <;> cases e.symm.trans h
    · exact exec_callAddr_of_sp_eq nnn hfull
    · exact exec_callAddr_of_sp_ne nnn hroom
  | ret =>
    obtain ⟨hempty, e⟩ | ⟨hused, e⟩ := exec_ret_cases s <;> cases e.symm.trans h
    · exact exec_ret_of_sp_eq_zero hempty
    · exact exec_ret_of_sp_ne_zero hused
  | addI x => cases h; exact congrArg _ (s.setPorts_addToI inp _ _)
  | ldB x =>
    obtain ⟨hroom, e⟩ | ⟨hover, e⟩ := exec_ldB_cases s x <;> cases e.symm.trans h
    · exact exec_ldB_of_lt hroom
    · exact exec_ldB_of_ge hover
  | storeRegs x =>
    obtain ⟨hroom, e⟩ | ⟨hover, e⟩ := exec_storeRegs_cases s x <;> cases e.symm.trans h
    · exact exec_storeRegs_of_lt hroom
    · exact exec_storeRegs_of_ge hover
  | loadRegs x =>
    obtain ⟨hroom, e⟩ | ⟨hover, e⟩ := exec_loadRegs_cases s x <;> cases e.symm.trans h
    · exact exec_loadRegs_of_lt hroom
    · exact exec_loadRegs_of_ge hover
  | drw x y n =>
    obtain ⟨hroom, e⟩ | ⟨hn, hover, e⟩ := exec_drw_cases s x y n <;> cases e.symm.trans h
    · exact exec_drw_of_zero_or_lt hroom
    · exact exec_drw_of_ge hn hover
  | _ => cases h; rfl

/-- R40: no instruction writes an input port. -/
theorem exec_ports (h : exec i s = .next t) : t.now = s.now ∧ t.key = s.key ∧ t.rand = s.rand := by
  obtain ⟨host, -⟩ := noInstructionTouchesTheHostOrTheTimestamp i s t h
  exact ⟨(congrArg State.now host).symm, (congrArg State.key host).symm, (congrArg State.rand host).symm⟩

end

/-- Settles O60: the change of one port is a `setPorts` that keeps the others, and the instruction keeps them all. -/
theorem portsAreReadOnlyByTheirInstructions : Obligations.PortsAreReadOnlyByTheirInstructions := by
  refine ⟨fun i s t b hother h => ?rand, fun i s t k hother h => ?key⟩
  case rand =>
    obtain ⟨hnow, hkey, -⟩ := exec_ports h
    have same := exec_setPorts (inp := { now := s.now, key := s.key, rand := b }) (.inr hother) (.inl rfl) h
    simpa only [State.setPorts, hnow, hkey] using same
  case key =>
    obtain ⟨hnow, -, hrand⟩ := exec_ports h
    have same := exec_setPorts (inp := { now := s.now, key := k, rand := s.rand }) (.inl rfl) (.inr hother) h
    simpa only [State.setPorts, hnow, hrand] using same

end Sys2Proof.Machine
end

section
/-! SUPPORT. A step in RUN from what it fetches: the instruction of a word that decodes, the diagnostic of one that
does not, and the tick before either. Every step of every state answers a next state. -/

namespace Sys2Proof.Machine

/-! ### The tick -/

theorem wrap8_sub_one {b : Byte} (h : b ≠ 0) : wrap8 (b.toNat - 1) = b - 1 := by
  apply BitVec.eq_of_toNat_eq
  rw [wrap8_toNat]
  bv_omega

section
variable (s : State)

theorem State.timerTick_of_due {hz : Nat} (hdt : s.dt ≠ 0) (hdue : hz ≤ (s.now - s.dtLast) * 60) :
    s.timerTick hz = s.writeTimer (s.dt - 1) s.now := by
  rw [State.timerTick, if_pos ⟨hdt, hdue⟩, wrap8_sub_one hdt]

theorem State.timerTick_of_not_due {hz : Nat} (h : s.dt = 0 ∨ (s.now - s.dtLast) * 60 < hz) : s.timerTick hz = s :=
  if_neg fun ⟨hdt, hdue⟩ => h.elim hdt hdue.not_gt

theorem State.writeTimer_frame (b : Byte) (n : Nat) :
    { s.writeTimer b n with dt := s.dt, dtLast := s.dtLast } = s := rfl

/-- R212, R213: the timer of the state in which an instruction executes. -/
theorem State.ready_timer_cases :
    (s.ready.dt = s.dt ∧ s.ready.dtLast = s.dtLast) ∨
    (s.dt ≠ 0 ∧ s.ready.dt.toNat = s.dt.toNat - 1 ∧ s.ready.dtLast = s.now ∧
      Config.clockHz ≤ (s.now - s.dtLast) * 60) := by
  obtain e | ⟨hdt, hdue, e⟩ := s.timerTick_cases Config.clockHz <;> rw [State.ready, e]
  · exact .inl ⟨rfl, rfl⟩
  · exact .inr ⟨hdt, wrap8_toNat_of_lt (by omega), rfl, hdue⟩

@[simp] theorem State.ready_diags : s.ready.diags = s.diags := by
  unfold State.ready State.advance State.timerTick
  split <;> rfl

/-- R101: before an instruction executes, the cycle has written the timer and pc alone. -/
theorem State.ready_eq_writes : ∃ b n, s.ready = (s.writeTimer b n).writePc (s.pc + 2) := by
  obtain e | ⟨-, -, e⟩ := s.timerTick_cases Config.clockHz <;> rw [State.ready, e]
  · exact ⟨s.dt, s.dtLast, rfl⟩
  · exact ⟨_, _, rfl⟩

theorem State.ready_eq :
    s.ready = if s.dt ≠ 0 ∧ Config.clockHz ≤ (s.now - s.dtLast) * 60
      then { s with pc := s.pc + 2, dt := s.dt - 1, dtLast := s.now } else { s with pc := s.pc + 2 } := by
  rw [State.ready]
  split
  case isTrue hdue => rw [s.timerTick_of_due hdue.1 hdue.2]; rfl
  case isFalse hnot => rw [s.timerTick_of_not_due ((not_and_or.mp hnot).imp not_not.mp not_le.mp)]; rfl

end

/-- Settles O21: the tick is one write of the timer, or none. -/
theorem timerTickDecrementsWhenDue : Obligations.TimerTickDecrementsWhenDue := by
  refine fun s hz => ⟨fun hdt hdue => ?_, s.timerTick_of_not_due⟩
  rw [s.timerTick_of_due hdt hdue]
  refine ⟨?_, rfl, s.writeTimer_frame _ _⟩
  change (s.dt - 1).toNat = s.dt.toNat - 1
  bv_omega

/-! ### The step -/

section
variable {s : State}

theorem decodeBytes_of_decode {hi lo : Byte} {i : Instr} (h : decode (wordOfBytes hi lo) = .ok i) :
    decodeBytes [hi, lo] = .ok (i, []) := by
  rw [decodeBytes, h]

theorem decodeBytes_of_refused {hi lo : Byte} {e : DecodeRefusal} (h : decode (wordOfBytes hi lo) = .error e) :
    decodeBytes [hi, lo] = .error e := by
  rw [decodeBytes, h]

theorem cycle_of_pc_lt (hpc : s.pc.toNat < 4095) :
    cycle s = decodeAndExecute (s.fetchBytes s.pc) (s.fetch16 s.pc) s.pc s.ready := by
  have htick : (s.timerTick Config.clockHz).mem = s.mem := s.timerTick_mem _
  rw [cycle, if_pos (s.guardPasses_iff.mpr hpc), State.fetchBytes, State.fetch16, htick]
  rfl

/-- R100, R205: a step in HALT does nothing. -/
theorem step_of_halted (h : s.Halted) : step s = .next s := by
  obtain ⟨r, hr⟩ := h
  rw [step, hr]

/-- R105, R106: a step whose fetched bytes decode runs their instruction. -/
theorem step_of_decodeBytes {i : Instr} {rest : List Byte} (hrun : s.status = .run) (hpc : s.pc.toNat < 4095)
    (h : decodeBytes (s.fetchBytes s.pc) = .ok (i, rest)) : step s = finish (exec i s.ready) := by
  rw [step_of_run hrun, cycle_of_pc_lt hpc, decodeAndExecute, h]

theorem step_of_decode {i : Instr} (hrun : s.status = .run) (hpc : s.pc.toNat < 4095)
    (h : decode (s.fetch16 s.pc) = .ok i) : step s = finish (exec i s.ready) :=
  step_of_decodeBytes hrun hpc (decodeBytes_of_decode h)

/-- R108: a step whose fetched word does not decode emits one diagnostic. -/
theorem step_of_unrecognized (hrun : s.status = .run) (hpc : s.pc.toNat < 4095)
    (h : decode (s.fetch16 s.pc) = .error (.unrecognized (s.fetch16 s.pc))) :
    step s = .next (s.ready.emitDiag { word := s.fetch16 s.pc, addr := s.pc }).endStep := by
  rw [step_of_run hrun, cycle_of_pc_lt hpc, decodeAndExecute, s.fetchBytes_eq, decodeBytes_of_refused h]
  rfl

end

/-- Settles O10: the state after the tick and the advance is the one in which the instruction executes. -/
theorem stepRunsTheDecodedInstruction : Obligations.StepRunsTheDecodedInstruction := by
  intro s i hrun hpc _ h
  rw [step_of_decodeBytes hrun hpc h, ← s.ready_eq]
  rfl

/-- Settles O15: in RUN the guard, an instruction or an unrecognized word answers, and a poll or nothing outside RUN. -/
theorem everyStepAnswersANextState : Obligations.EveryStepAnswersANextState := by
  intro s
  cases hs : s.status with
  | halt r => exact ⟨s, step_of_halted ⟨r, hs⟩⟩
  | wait x => exact ⟨_, step_of_wait hs⟩
  | run =>
    obtain hpc | hpc := Nat.lt_or_ge s.pc.toNat 4095
    · obtain ⟨i, hi⟩ | hnone := decode_ok_or_unrecognized (s.fetch16 s.pc)
      · obtain ⟨t, ht⟩ := exec_total i s.ready
        exact ⟨t.endStep, by rw [step_of_decode hs hpc hi, ht, finish]⟩
      · exact ⟨_, step_of_unrecognized hs hpc hnone⟩
    · exact ⟨_, step_of_run_of_pc_ge hs hpc⟩

/-- Settles O11: the tick, the advance and the diagnostic are all that the step does before the host's part. -/
theorem unrecognizedWordEmitsADiagnostic : Obligations.UnrecognizedWordEmitsADiagnostic := by
  intro s hrun hpc h
  refine ⟨_, step_of_unrecognized hrun hpc h, ?pc, ?diags, ?timer, ?frame⟩
  case pc => simp
  case diags => simp
  case timer => simpa using s.ready_timer_cases
  case frame =>
    obtain ⟨b, n, e⟩ := s.ready_eq_writes
    rw [State.withHostOf_endStep, e]
    rfl

/-- Settles O13: by induction on the number of steps. -/
theorem haltedMachineStaysAsItIs : Obligations.HaltedMachineStaysAsItIs := by
  intro s n h
  induction n with
  | zero => rfl
  | succ n ih =>
    simp only [Host.Core.run]
    rw [show Sys2Proof.core.step s = .next s from step_of_halted h]
    exact ih

/-! ### The parked machine -/

theorem encode_jpAddr (p : Addr12) : encode (.jpAddr p) = 0x1000 ||| p.setWidth 16 := by
  apply BitVec.eq_of_toNat_eq
  rw [encode, encodeA, BitVec.toNat_append, BitVec.toNat_or, BitVec.toNat_setWidth_of_le (by decide)]
  rfl

/-- R110: the step of a parked machine is the jump to where it is. -/
theorem State.Parked.step_eq {s : State} {p : Addr12} (h : s.Parked p) :
    step s = .next (s.ready.writePc (addrOperand p)).endStep := by
  have hpc : s.pc.toNat < 4095 := by
    rw [h.atP, show (p.setWidth 16).toNat = p.toNat from addrOperand_toNat p]
    exact Nat.lt_succ_of_le h.below
  have hjump : decode (s.fetch16 s.pc) = .ok (.jpAddr p) := by rw [h.jump, ← encode_jpAddr, decode_encode]
  rw [step_of_decode h.running hpc hjump, exec_jpAddr, finish]

/-- Settles O16: the jump puts back the pc that the advance moved, and the rest of the step is the tick. -/
theorem parkedMachineStaysParked : Obligations.ParkedMachineStaysParked := by
  intro s p h
  have hp : addrOperand p = s.pc := h.atP.symm
  refine ⟨_, h.step_eq, ⟨?running, ?atP, h.below, ?jump⟩, ?frame⟩
  case running => simp [h.running]
  case atP => rw [State.endStep_pc, State.writePc_pc]; rfl
  case jump => simpa [State.fetch16, hp] using h.jump
  case frame =>
    obtain ⟨b, n, e⟩ := s.ready_eq_writes
    rw [State.withHostOf_endStep, e, hp]
    rfl

end Sys2Proof.Machine
end

section
/-! SUPPORT. What every step keeps: the invariant of the machine (R25, R26), from creation and boot on, and the order of
the host's clock and the timer's last decrement (D25). -/

namespace Sys2Proof.Machine

/-! ### The invariant at creation and over a load -/

theorem State.Inv.create (init : Init) (t0 : Nat) : (State.create init t0).Inv where
  memWf := ⟨List.Pairwise.nil, nofun⟩
  spListed := le_rfl
  stackBounded := Nat.zero_le _
  returnsBounded := nofun
  pcBounded := by rw [State.create_pc]; decide

namespace State.Inv
variable {s t : State}

theorem of_same_memory_and_stack (h : s.Inv) (hmem : t.mem = s.mem) (hstack : t.stack = s.stack) (hsp : t.sp = s.sp)
    (hpc : t.pc.toNat ≤ 0x10FE) : t.Inv where
  memWf := hmem ▸ h.memWf
  spListed := by rw [hsp, hstack]; exact h.spListed
  stackBounded := hstack ▸ h.stackBounded
  returnsBounded := hstack ▸ h.returnsBounded
  pcBounded := hpc

theorem writePc (h : s.Inv) {w : Word} (hw : w.toNat ≤ 0x10FE) : (s.writePc w).Inv :=
  h.of_same_memory_and_stack rfl rfl rfl hw

theorem writeMem (h : s.Inv) {m : Memory} (hm : m.wf) : (s.writeMem m).Inv where
  memWf := hm
  spListed := h.spListed
  stackBounded := h.stackBounded
  returnsBounded := h.returnsBounded
  pcBounded := h.pcBounded

theorem of_load (h : s.Inv) {offset : Nat} {bytes : List Byte} (hload : s.load offset bytes = .next t) : t.Inv := by
  have hwf := s.load_wf t offset bytes h.memWf hload
  obtain ⟨-, e⟩ | ⟨-, -, e⟩ | ⟨-, -, e⟩ := s.load_cases offset bytes <;> cases e.symm.trans hload
  exact h.writeMem hwf

theorem sp_le (h : s.Inv) : s.sp ≤ Config.stackDepth := h.spListed.trans h.stackBounded

/-! ### The invariant over an instruction -/

/-- R27: below the capacity a push keeps the stack within it, and what it pushes is a return address. -/
theorem push (h : s.Inv) {w : Word} (hw : w.toNat ≤ 0x1000) (hroom : s.sp ≠ Config.stackDepth) :
    (s.writeStack (setEntry 0 s.stack s.sp w) (s.sp + 1)).Inv where
  memWf := h.memWf
  spListed := by
    rw [State.writeStack_sp, State.writeStack_stack, setEntry_length]
    exact le_max_right _ _
  stackBounded := by
    rw [State.writeStack_stack, setEntry_length]
    exact max_le h.stackBounded (Nat.lt_of_le_of_ne h.sp_le hroom)
  returnsBounded e he := by
    obtain rfl | he := mem_setEntry 0 s.stack s.sp w e h.spListed he
    · exact hw
    · exact h.returnsBounded e he
  pcBounded := h.pcBounded

/-- R28: what a pop gives is a return address. -/
theorem pop (h : s.Inv) (hused : s.sp ≠ 0) :
    ((s.writeStack s.stack (s.sp - 1)).writePc (s.stackEntry (s.sp - 1))).Inv where
  memWf := h.memWf
  spListed := (Nat.sub_le _ _).trans h.spListed
  stackBounded := h.stackBounded
  returnsBounded := h.returnsBounded
  pcBounded := by
    have hlisted : s.sp - 1 < s.stack.length := Nat.lt_of_lt_of_le (Nat.sub_one_lt hused) h.spListed
    exact (h.returnsBounded _ (s.stackEntry_mem _ hlisted)).trans (by decide)

/-- R25, R26: an instruction that executes with pc at most 0x1000 keeps the invariant. -/
theorem of_exec {i : Instr} (h : s.Inv) (hpc : s.pc.toNat ≤ 0x1000) (hexec : exec i s = .next t) : t.Inv := by
  cases exec_effect hexec with
  | skip c =>
    cases c with
    | true => exact h.writePc (show (s.pc + 2).toNat ≤ 0x10FE by bv_omega)
    | false => exact h.writePc h.pcBounded
  | jump nnn => exact h.writePc (by rw [addrOperand_toNat]; omega)
  | offsetJump nnn => exact h.writePc (by rw [addrOperand_add_zext16_toNat]; exact addr12_add_byte_le nnn _)
  | call nnn room => exact (h.push hpc room).writePc (by rw [addrOperand_toNat]; omega)
  | ret used => exact h.pop used
  | store bs room => exact h.writeMem (Memory.writeList_wf bs s.mem _ h.memWf room)
  | _ => exact h.of_same_memory_and_stack rfl rfl rfl h.pcBounded

/-! ### The invariant over a step -/

theorem endStep (h : s.Inv) : s.endStep.Inv :=
  h.of_same_memory_and_stack s.endStep_mem s.endStep_stack s.endStep_sp (by rw [s.endStep_pc]; exact h.pcBounded)

/-- R102, R104: an instruction executes with pc at most 0x1000. -/
theorem ready (h : s.Inv) (hpc : s.pc.toNat < 4095) : s.ready.Inv ∧ s.ready.pc.toNat ≤ 0x1000 := by
  have hle : s.ready.pc.toNat ≤ 0x1000 := by rw [s.ready_pc]; bv_omega
  exact ⟨h.of_same_memory_and_stack s.ready_mem s.ready_stack s.ready_sp (hle.trans (by decide)), hle⟩

theorem poll (h : s.Inv) (x : Reg) : (s.poll x).Inv := by
  obtain ⟨_, -, e⟩ | ⟨-, e⟩ := s.poll_cases x <;> rw [e]
  · exact h.of_same_memory_and_stack rfl rfl rfl h.pcBounded
  · exact h

theorem of_step (h : s.Inv) (hstep : step s = .next t) : t.Inv := by
  obtain ⟨_, -, rfl⟩ | ⟨x, -, rfl⟩ | ⟨-, -, rfl⟩ | ⟨-, hpc, _, _, -, hexec, rfl⟩ | ⟨-, hpc, -, rfl⟩ :=
    step_cases s t hstep
  · exact h
  · exact (h.poll x).endStep
  · exact (h.of_same_memory_and_stack (t := s.raise .pcExhausted) rfl rfl rfl h.pcBounded).endStep
  · obtain ⟨hready, hle⟩ := h.ready hpc
    exact (hready.of_exec hle hexec).endStep
  · obtain ⟨hready, -⟩ := h.ready hpc
    exact (hready.of_same_memory_and_stack (t := s.ready.emitDiag _) rfl rfl rfl hready.pcBounded).endStep

theorem of_reaches (h : s.Inv) (hreaches : Reaches s t) : t.Inv := by
  induction hreaches with
  | refl => exact h
  | next _ hstep ih => exact ih.of_step hstep

theorem of_boot {init : Init} {t0 : Nat} {font rom : List Byte} (hboot : boot init t0 font rom = .next s) : s.Inv := by
  unfold Machine.boot at hboot
  split at hboot
  · next m hfont => exact ((State.Inv.create init t0).of_load hfont).of_load hboot
  · cases hboot
  · cases hboot

end State.Inv

/-- Settles O17: by the ways a step can go, and by the effects of an instruction that executes with pc at most 0x1000. -/
theorem everyStepKeepsTheInvariant : Obligations.EveryStepKeepsTheInvariant :=
  fun _ _ h hstep => h.of_step hstep

/-- Settles O18: creation meets the invariant, and loads and steps keep it. -/
theorem everyBootedRunKeepsTheInvariant : Obligations.EveryBootedRunKeepsTheInvariant := by
  intro init t0 font rom s t hboot hreaches
  have h := (State.Inv.of_boot hboot).of_reaches hreaches
  exact ⟨h, h.sp_le, h.pcBounded⟩

/-! ### The clock -/

namespace State.ClockOk
variable {s t : State}

theorem create (init : Init) (t0 : Nat) : (State.create init t0).ClockOk := ⟨le_rfl, trivial⟩

theorem of_same_clock (h : s.ClockOk) (hlast : t.dtLast ≤ s.now) (hnow : t.now = s.now)
    (hinputs : t.hostInputs = s.hostInputs) : t.ClockOk :=
  ⟨hnow ▸ hlast, by rw [hnow, hinputs]; exact h.rises⟩

/-- R40, D25: the host's next clock value, listed or free, is not below the one before. -/
theorem endStep (h : s.ClockOk) : s.endStep.ClockOk ∧ s.now ≤ s.endStep.now := by
  obtain ⟨hlast, hrises⟩ := h
  unfold State.endStep State.nextInputs
  split
  case h_1 inp rest hinputs =>
    rw [hinputs] at hrises
    obtain ⟨hle, hrest⟩ := hrises
    exact ⟨⟨hlast.trans hle, hrest⟩, hle⟩
  case h_2 hinputs =>
    have hle : s.now ≤ s.now + Config.hostElapsed s.freeDraws := Nat.le_add_right _ _
    have hnone : clockRises (s.now + Config.hostElapsed s.freeDraws) s.hostInputs := by rw [hinputs]; trivial
    exact ⟨⟨hlast.trans hle, hnone⟩, hle⟩

theorem ready (h : s.ClockOk) : s.ready.ClockOk := by
  refine h.of_same_clock ?_ s.ready_now s.ready_hostInputs
  obtain ⟨-, hlast⟩ | ⟨-, -, hlast, -⟩ := s.ready_timer_cases
  · rw [hlast]; exact h.lastPast
  · rw [hlast]

theorem poll (h : s.ClockOk) (x : Reg) : (s.poll x).ClockOk ∧ (s.poll x).now = s.now := by
  obtain ⟨_, -, e⟩ | ⟨-, e⟩ := s.poll_cases x <;> rw [e]
  · exact ⟨h.of_same_clock h.lastPast rfl rfl, rfl⟩
  · exact ⟨h, rfl⟩

theorem of_exec {i : Instr} (h : s.ClockOk) (hexec : exec i s = .next t) : t.ClockOk ∧ t.now = s.now := by
  obtain ⟨hhost, hlast, -⟩ := noInstructionTouchesTheHostOrTheTimestamp i s t hexec
  obtain ⟨hnow, -⟩ := exec_ports hexec
  have hinputs : t.hostInputs = s.hostInputs := (congrArg State.hostInputs hhost).symm
  exact ⟨h.of_same_clock (hlast ▸ h.lastPast) hnow hinputs, hnow⟩

end State.ClockOk

/-- Settles O2: creation meets both invariants for every INIT and t0. -/
theorem resetMeetsBothInvariants : Obligations.ResetMeetsBothInvariants :=
  ⟨State.Inv.create Init.zero 0, State.ClockOk.create Init.zero 0⟩

/-- Settles O19: only the tick writes DT_LAST, with the present clock value, and only a step's end moves the clock. -/
theorem everyStepKeepsTheClockInOrder : Obligations.EveryStepKeepsTheClockInOrder := by
  intro s t h hstep
  obtain ⟨_, -, rfl⟩ | ⟨x, -, rfl⟩ | ⟨-, -, rfl⟩ | ⟨-, -, _, u, -, hexec, rfl⟩ | ⟨-, -, -, rfl⟩ := step_cases s t hstep
  · exact ⟨h, le_rfl⟩
  · obtain ⟨hpoll, hnow⟩ := h.poll x
    exact hnow ▸ hpoll.endStep
  · exact (h.of_same_clock (t := s.raise .pcExhausted) h.lastPast rfl rfl).endStep
  · obtain ⟨hu, hnow⟩ := h.ready.of_exec hexec
    exact hnow.trans s.ready_now ▸ hu.endStep
  · have hready := h.ready
    exact s.ready_now ▸ (hready.of_same_clock (t := s.ready.emitDiag _) hready.lastPast rfl rfl).endStep

/-- Settles O20: outside FX15 only the tick writes the timer. -/
theorem timerFallsByAtMostOnePerInterval : Obligations.TimerFallsByAtMostOnePerInterval := by
  intro s t hstep hother
  have tick (hrun : s.status = .run) : (s.ready.dt = s.dt ∧ s.ready.dtLast = s.dtLast) ∨
      (s.status = .run ∧ s.dt ≠ 0 ∧ s.ready.dt.toNat + 1 = s.dt.toNat ∧ s.ready.dtLast = s.now ∧
        Config.clockHz ≤ (s.now - s.dtLast) * 60) :=
    s.ready_timer_cases.imp_right fun ⟨hdt, hfell, hlast, hdue⟩ => ⟨hrun, hdt, by bv_omega, hlast, hdue⟩
  obtain ⟨_, -, rfl⟩ | ⟨x, -, rfl⟩ | ⟨-, -, rfl⟩ | ⟨hrun, -, i, u, hdecode, hexec, rfl⟩ | ⟨hrun, -, -, rfl⟩ :=
    step_cases s t hstep
  · exact .inl ⟨rfl, rfl⟩
  · obtain ⟨_, -, e⟩ | ⟨-, e⟩ := s.poll_cases x <;> rw [e, State.endStep_dt, State.endStep_dtLast] <;>
      exact .inl ⟨rfl, rfl⟩
  · rw [State.endStep_dt, State.endStep_dtLast]
    exact .inl ⟨rfl, rfl⟩
  · obtain ⟨-, hlast, -, hdt⟩ := noInstructionTouchesTheHostOrTheTimestamp i _ u hexec
    have hdt := hdt.resolve_right fun ⟨x, hx⟩ => hother x (hx ▸ hdecode)
    rw [State.endStep_dt, State.endStep_dtLast, hlast, hdt]
    exact tick hrun
  · rw [State.endStep_dt, State.endStep_dtLast]
    exact tick hrun

end Sys2Proof.Machine
end

section
/-! SUPPORT. What several operations come to together: the two loads of boot (R230 to R232), a call and its return
(R121, R122), a store and the fetch of what it stored (R64). -/

namespace Sys2Proof.Machine

/-! ### Boot -/

/-- R230: the font load at 0x000 and the ROM load at 0x200, over the empty memory of creation. -/
theorem boot_of_fits (init : Init) (t0 : Nat) {font rom : List Byte} (hfont : font.length ≤ 4096)
    (hrom : rom.length ≤ 3584) :
    boot init t0 font rom =
      .next ((State.create init t0).writeMem (Memory.writeList (Memory.writeList [] 0 font) 0x200 rom)) := by
  have hfontRoom : Config.fontBase + font.length ≤ 4096 := by rw [Config.fontBase]; omega
  have hromRoom : Config.progBase + rom.length ≤ 4096 := by rw [Config.progBase]; omega
  rw [boot, State.load_of_fits rfl hfontRoom]
  exact State.load_of_fits rfl hromRoom

/-- Settles O4: the ROM is the later row of bytes, and the font is a row from address 0 over zeroed memory. -/
theorem bootPlacesFontAndRom : Obligations.BootPlacesFontAndRom := by
  intro init t0 font rom hfont hrom
  refine ⟨_, boot_of_fits init t0 hfont hrom, fun a => ?memory, State.writeMem_frame _ _⟩
  have hfontByte : (Memory.writeList [] 0 font).read a = font.getD a 0 := by
    rw [Memory.read_writeList, if_pos (Nat.zero_le a), Nat.sub_zero, Memory.read_nil]
  rw [State.writeMem_mem]
  split
  case isTrue h =>
    rw [Memory.read_writeList, if_pos h.1, List.getD_eq_getElem _ _ (by omega), List.getD_eq_getElem _ _ (by omega)]
  case isFalse h => rw [Memory.read_writeList_outside rom _ (by omega), hfontByte]

/-! ### A call and its return -/

/-- Settles O25: the pop reads the entry that the push wrote, and the push left the entries below it alone. -/
theorem returnComesBackAfterTheCall : Obligations.ReturnComesBackAfterTheCall := by
  intro nnn s t u hroom hcall hstack hsp
  cases (exec_callAddr_of_sp_ne nnn hroom).symm.trans hcall
  have hused : u.sp = s.sp + 1 := hsp
  have entry (k : Nat) : u.stackEntry k = if k = s.sp then s.pc else s.stackEntry k := by
    rw [State.stackEntry, hstack]
    exact s.stackEntry_writeStack_setEntry s.sp (s.sp + 1) k s.pc
  refine ⟨_, exec_ret_of_sp_ne_zero (by omega), ?pc, ?sp, fun k hk => ?below⟩
  case pc => rw [State.writePc_pc, hused, entry, if_pos (by omega)]
  case sp => rw [State.writePc_sp, State.writeStack_sp, hused]; rfl
  case below => rw [State.stackEntry_writePc, State.stackEntry_writeStack_stack, entry, if_neg (by omega)]

/-! ### A store and a fetch -/

theorem wordOfBytes_toNat (hi lo : Byte) : (wordOfBytes hi lo).toNat = hi.toNat * 256 + lo.toNat := by
  rw [wordOfBytes, BitVec.toNat_append, ← Nat.shiftLeft_add_eq_or_of_lt lo.isLt, Nat.shiftLeft_eq]

/-- Settles O44: the first two bytes stored are V0 and V1, and the fetch reads them in this order. -/
theorem storedBytesAreFetched : Obligations.StoredBytesAreFetched := by
  intro x s hx hroom
  have stored (k : Reg) (hk : k ≤ x) := Memory.read_writeList_firstRegs s s.mem s.i.toNat hk
  refine ⟨_, exec_storeRegs_of_lt hroom, ?_⟩
  have first : (s.mem.writeList s.i.toNat (s.firstRegs x)).read s.i.toNat = s.readV 0 := stored 0 (Fin.zero_le x)
  have second : (s.mem.writeList s.i.toNat (s.firstRegs x)).read (s.i.toNat + 1) = s.readV 1 := stored 1 hx
  rw [State.fetch16, wordOfBytes_toNat, State.writeMem_mem, first, second]

end Sys2Proof.Machine
end

section
/-! SUPPORT. What R172 to R174 say of special blits: one that starts beyond an edge, and the same one drawn twice. -/

namespace Sys2Proof.Machine

/-- R173: the sprite reaches no column left of `x` and no row above `y`. -/
theorem spriteBit_eq_false_of_lt {x y r c : Nat} {rows : List Byte} (h : c < x ∨ r < y) :
    spriteBit x y rows r c = false := by
  obtain h | h := h <;> simp [spriteBit, h.not_ge]

theorem Display.ext_on_grid {d e : Display} (h : ∀ r c, r < 32 → c < 64 → d.cell r c = e.cell r c) : d = e := by
  refine Display.ext_cell d e fun r c => ?_
  by_cases hin : r < 32 ∧ c < 64
  · exact h r c hin.1 hin.2
  · rw [d.cell_out r c hin, e.cell_out r c hin]

/-- Settles O48: the picture of such a sprite is dark on the grid. -/
theorem blitOutsideTheGridDrawsNothing : Obligations.BlitOutsideTheGridDrawsNothing := by
  intro d x y rows hout
  have dark {r c : Nat} (hr : r < 32) (hc : c < 64) : spriteBit x.toNat y.toNat rows r c = false :=
    spriteBit_eq_false_of_lt (by omega)
  refine ⟨Display.ext_on_grid fun r c hr hc => ?_, ?_⟩
  · rw [blit_cell d x y rows hr hc, dark hr hc, Bool.xor_false]
  · rw [← Bool.not_eq_true, blit_collided_iff]
    rintro ⟨r, c, hr, hc, hbit, -⟩
    exact Bool.false_ne_true ((dark hr hc).symm.trans hbit)

/-- Settles O49: each draw XORs the same bits, so a cell under a bit 1 is lit at the second draw if it was dark. -/
theorem drawingTwiceRestoresTheDisplay : Obligations.DrawingTwiceRestoresTheDisplay := by
  refine fun d x y rows => ⟨Display.ext_on_grid fun r c hr hc => ?_, ?_⟩
  · rw [blit_cell _ x y rows hr hc, blit_cell d x y rows hr hc, Bool.xor_assoc, Bool.xor_self, Bool.xor_false]
  · rw [blit_collided_iff]
    refine exists₂_congr fun r c => and_congr_right fun hr => and_congr_right fun hc => and_congr_right fun hbit => ?_
    rw [blit_cell d x y rows hr hc, hbit, Bool.xor_true, Bool.not_eq_true']

/-- Every cell 1. -/
def Display.lit : Display := Vector.replicate 32 (Vector.replicate 64 true)

theorem Display.cell_lit {r c : Nat} (hr : r < 32) (hc : c < 64) : Display.lit.cell r c = true := by
  simp [Display.cell, Display.lit, hr, hc]

/-- R174: over a display with every cell lit the second of two equal draws only lights cells again. -/
theorem second_blit_over_lit_not_collided (x y : Byte) (rows : List Byte) :
    (blit (blit Display.lit x y rows).disp x y rows).collided = false := by
  rw [← Bool.not_eq_true, (drawingTwiceRestoresTheDisplay Display.lit x y rows).2]
  rintro ⟨r, c, hr, hc, -, hdark⟩
  exact Bool.false_ne_true (hdark.symm.trans (Display.cell_lit hr hc))

/-- Refutes O50: on a display with every cell lit, the row 0xFF drawn twice at (0, 0) shows but collides at the first
draw alone. -/
theorem not_secondDrawCollidesWheneverTheSpriteShows : ¬ Obligations.SecondDrawCollidesWheneverTheSpriteShows := by
  intro h
  have shows : spriteBit 0 0 [0xFF] 0 0 = true := by decide
  have collides := (h Display.lit 0 0 [0xFF]).mpr ⟨0, 0, by decide, by decide, shows⟩
  exact Bool.false_ne_true ((second_blit_over_lit_not_collided 0 0 [0xFF]).symm.trans collides)

end Sys2Proof.Machine
end
